-- ==== Sys2Proof/Word.lean ====
section
/-! DEFINITION. The word types of the PFE (`00_scope.md` R7: `REGW`, `PIXW`, `CHW`, `DIMW`). -/

namespace Sys2Proof

/-- A 32-bit register value, command word or pixel element (R7 `REGW`, `PIXW`). -/
abbrev Word := BitVec 32

/-- An 8-bit channel, or one byte of memory (R7 `CHW`). -/
abbrev Byte := BitVec 8

/-- A register index (R22: 64 indices). -/
abbrev RegIndex := BitVec 6

end Sys2Proof
end

