-- ==== Sys2Proof/Config.lean ====
section
/-! DEFINITION. What an instance of the PFE fixes (`00_scope.md` R7, `10_state.md` R21) and the free values: the open
parameters of `92_eei_decisions.md` (D5, D6, D20, D22), the soft-light function (U11) and the values the spec leaves
unspecified (U13, U14). A free value is an opaque constant: no proof can see what it is. -/

namespace Sys2Proof

/-- `HOST_BYTE_ORDER` (R64, D6): how the host sees the four bytes of an element. -/
inductive ByteOrder where
  | little
  | big
  deriving DecidableEq, Repr, Inhabited

/-- Which filling the open parameter `BLEND_FN` has (D22): the spec's defaults of `43_blend.md` R198 to R203, R205
and R206, or functions of the implementation's own. Soft-light has no default, so it is free under both. -/
inductive BlendFill where
  | defaults
  | custom
  deriving DecidableEq, Repr, Inhabited

/-- The parameters of one PFE instance (R7, R21): fixed for its life, an argument of the step relation. They ride in
`State` as plain data (log 1), and no step changes them. -/
structure Params where
  /-- `MEM_ELEMS` (D5): how many 32-bit elements pixel memory has. -/
  memElems : Nat
  /-- `HOST_BYTE_ORDER` (D6). -/
  byteOrder : ByteOrder
  /-- `LUT_S2L` (R55, D20): the table from sRGB to linear. -/
  lutS2L : Vector Byte 256
  /-- `LUT_L2S` (R55, D20): the table from linear to sRGB. -/
  lutL2S : Vector Byte 256
  /-- Which filling `BLEND_FN` has (D22). -/
  blendFill : BlendFill
  deriving DecidableEq, Repr

namespace Config

/-- `MEM_ELEMS` of the instance: open (D5). DESIGN CHOICE: a free value (log 2). -/
opaque memElems : Nat

/-- `HOST_BYTE_ORDER` of the instance: open (D6). DESIGN CHOICE: a free value (log 3). -/
opaque byteOrder : ByteOrder

/-- Free bytes from which `LUT_S2L` is made (R55, D20; log 4). -/
opaque rawS2L : Nat → Byte

/-- Free bytes from which `LUT_L2S` is made (R55, D20; log 4). -/
opaque rawL2S : Nat → Byte

/-- Which filling `BLEND_FN` has: open (D22). DESIGN CHOICE: a free value (log 5). -/
opaque blendFill : BlendFill

/-- The implementation's own overlay where its condition holds. The arguments are `s`, `d`, `sa`, `da` here and in
every channel function below (R192, D22). Hard-light is the same two expressions under its own condition (R199). -/
opaque overlayLow : Int → Int → Int → Int → Int

/-- The implementation's own overlay where its condition fails (R198, R199, D22). -/
opaque overlayHigh : Int → Int → Int → Int → Int

/-- The implementation's own darken (R200, D22). -/
opaque darken : Int → Int → Int → Int → Int

/-- The implementation's own lighten (R201, D22). -/
opaque lighten : Int → Int → Int → Int → Int

/-- The implementation's own color-dodge (R202, D22). -/
opaque dodge : Int → Int → Int → Int → Int

/-- The implementation's own color-burn (R203, D22). -/
opaque burn : Int → Int → Int → Int → Int

/-- Soft-light (R204, U11): an uninterpreted total integer function of its four arguments; the spec gives no default. -/
opaque softlight : Int → Int → Int → Int → Int

/-- The implementation's own difference (R205, D22). -/
opaque difference : Int → Int → Int → Int → Int

/-- The implementation's own exclusion (R206, D22). -/
opaque exclusion : Int → Int → Int → Int → Int

/-- What the byte at a byte address of pixel memory holds from power-up until something writes it: any value (R262,
U14; log 6). -/
opaque powerUpByte : Nat → Byte

/-- What a slot of the scratch window holds when a line starts: any value, never read before it is written (R50, U13;
log 13). -/
opaque scratchAtStart : Nat → Word

/-- The greatest of `raw 0`, …, `raw i`. -/
def runningMax (raw : Nat → Byte) : Nat → Byte
  | 0 => raw 0
  | i + 1 => if (runningMax raw i).toNat ≤ (raw (i + 1)).toNat then raw (i + 1) else runningMax raw i

/-- A gamma table made of free bytes: their running maximum. These are exactly the non-decreasing tables (R55, R137):
each such table is its own running maximum. -/
def gammaTable (raw : Nat → Byte) : Vector Byte 256 :=
  Vector.ofFn fun i => runningMax raw i.val

/-- The free parameters of the instance. -/
def params : Params where
  memElems := memElems
  byteOrder := byteOrder
  lutS2L := gammaTable rawS2L
  lutL2S := gammaTable rawL2S
  blendFill := blendFill

/-- `SCRATCH_CAP` (R7): elements of the blur scratch window, and the cap of a kernel. -/
def scratchCap : Nat := 512

/-- The significand of `KCONST` in binary64, `0x1.E145CAFF13A88p+0` (R161), in units of `2^-52`. The literal
1.8799712059732503 is taken as printed (U9; log 15). -/
def kconstSig : Nat := 0x1E145CAFF13A88

/-- The unit of `kconstSig`. -/
def kconstEx : Int := -52

/-- The value of `ID` (R31). -/
def idValue : Word := 0x50464501#32

end Config
end Sys2Proof
end

