-- ==== Sys2Proof/Syntax.lean ====
section
/-! DEFINITION. The commands of the PFE: one constructor per row of `spec/opcode_table.json` (`30_encoding.md` R83). A
command's operands are never in the command word (R81), so no constructor has an argument. -/

namespace Sys2Proof

/-- The 31 legal commands (R83), in the table's order. -/
inductive Instr where
  /-- `NOP` (R112). -/
  | nop
  /-- `COPY` (R113). -/
  | copy
  /-- `SUBSURF.S0` (R115). -/
  | subsurfS0
  /-- `SUBSURF.S1` (R115). -/
  | subsurfS1
  /-- `SUBSURF.S2` (R115). -/
  | subsurfS2
  /-- `CMX` (R131). -/
  | cmx
  /-- `LUM2A` (R133). -/
  | lum2a
  /-- `S2L` (R135). -/
  | s2l
  /-- `L2S` (R136). -/
  | l2s
  /-- `BOXH` (R170). -/
  | boxh
  /-- `BOXV` (R171). -/
  | boxv
  /-- `BOXHV` (R172). -/
  | boxhv
  /-- `GBLUR` (R173). -/
  | gblur
  /-- `BLEND.NORMAL` (R195). -/
  | blendNormal
  /-- `BLEND.MULTIPLY` (R196). -/
  | blendMultiply
  /-- `BLEND.SCREEN` (R197). -/
  | blendScreen
  /-- `BLEND.OVERLAY` (R198). -/
  | blendOverlay
  /-- `BLEND.HARDLIGHT` (R199). -/
  | blendHardlight
  /-- `BLEND.DARKEN` (R200). -/
  | blendDarken
  /-- `BLEND.LIGHTEN` (R201). -/
  | blendLighten
  /-- `BLEND.DODGE` (R202). -/
  | blendDodge
  /-- `BLEND.BURN` (R203). -/
  | blendBurn
  /-- `BLEND.SOFTLIGHT` (R204). -/
  | blendSoftlight
  /-- `BLEND.DIFFERENCE` (R205). -/
  | blendDifference
  /-- `BLEND.EXCLUSION` (R206). -/
  | blendExclusion
  /-- `COMP.OVER` (R222). -/
  | compOver
  /-- `COMP.IN` (R223). -/
  | compIn
  /-- `COMP.OUT` (R224). -/
  | compOut
  /-- `COMP.ATOP` (R225). -/
  | compAtop
  /-- `COMP.XOR` (R226). -/
  | compXor
  /-- `ARITH` (R230). -/
  | arith
  deriving DecidableEq, Repr

end Sys2Proof
end

