-- ==== Sys2Proof/WellFormed.lean ====
section
/-! DEFINITION. What can be ill-formed. An `Instr` has no operand, so every one of them is well formed; a command WORD
can be ill-formed in three ways (`30_encoding.md` R85), and a gamma table in one (`41_color_transform.md` R137). The
checks are written from the prose of R85, the decoder from the table of R83. -/

namespace Sys2Proof

/-- `OPC`, bits 7:0 (R80). -/
def wordOpc (w : Word) : Byte := w.extractLsb' 0 8

/-- `SUB`, bits 11:8 (R80). -/
def wordSub (w : Word) : BitVec 4 := w.extractLsb' 8 4

/-- `RSV`, bits 31:12 (R80). -/
def wordRsv (w : Word) : BitVec 20 := w.extractLsb' 12 20

/-- The reserved bits are zero (R85). -/
def rsvOk (w : Word) : Bool := wordRsv w == 0

/-- The legal values of `OPC` (R85). -/
def legalOpcs : List Byte :=
  [0x00#8, 0x01#8, 0x02#8, 0x10#8, 0x11#8, 0x12#8, 0x13#8, 0x20#8, 0x21#8, 0x22#8, 0x23#8, 0x30#8, 0x31#8, 0x32#8]

/-- `OPC` is a legal one (R85). -/
def opcOk (w : Word) : Bool := legalOpcs.contains (wordOpc w)

/-- How many values of `SUB` are legal under an `OPC`: 12 blend modes, 5 operators, 3 slots, else only 0 (R85). -/
def subCount (opc : Byte) : Nat :=
  if opc = 0x30#8 then 12 else if opc = 0x31#8 then 5 else if opc = 0x02#8 then 3 else 1

/-- `SUB` is in the range of its `OPC` (R85). -/
def subOk (w : Word) : Bool := (wordSub w).toNat < subCount (wordOpc w)

/-- The word is legal by the prose of R85. -/
def wordLegal (w : Word) : Bool := rsvOk w && opcOk w && subOk w

/-- A gamma table is non-decreasing (R55, R137). -/
abbrev tableRising (t : Vector Byte 256) : Prop :=
  ∀ i : Fin 255, (t.get i.castSucc).toNat ≤ (t.get i.succ).toNat

/-- What may be assumed of an instance's parameters (the table at the end of `92_eei_decisions.md`). -/
abbrev Params.wellFormed (p : Params) : Prop := tableRising p.lutS2L ∧ tableRising p.lutL2S

end Sys2Proof
end

