-- ==== Sys2Proof/Decode.lean ====
section
/-! DEFINITION. Decoding and encoding of the 32-bit command word (`30_encoding.md` R80 to R85). Decoding is total on
all words (R82) and rejects by name; the encoder writes the words of R83. -/

namespace Sys2Proof

/-- Why a word names no command (R85). -/
inductive DecodeError where
  /-- `RSV` is not zero. -/
  | reservedBits
  /-- `OPC` is none of the fourteen legal ones. -/
  | unknownOpcode
  /-- `SUB` is outside the range of its `OPC`. -/
  | badSelector
  deriving DecidableEq, Repr

/-- The command that the selector picks among those of one `OPC` (R84). -/
def pickSelector (sub : Nat) (l : List Instr) : Except DecodeError Instr :=
  match l[sub]? with
  | some i => .ok i
  | none => .error .badSelector

/-- The command of an `OPC` and a `SUB` (R83, R84). -/
def decodeFields (opc sub : Nat) : Except DecodeError Instr :=
  match opc with
  | 0x00 => pickSelector sub [.nop]
  | 0x01 => pickSelector sub [.copy]
  | 0x02 => pickSelector sub [.subsurfS0, .subsurfS1, .subsurfS2]
  | 0x10 => pickSelector sub [.cmx]
  | 0x11 => pickSelector sub [.lum2a]
  | 0x12 => pickSelector sub [.s2l]
  | 0x13 => pickSelector sub [.l2s]
  | 0x20 => pickSelector sub [.boxh]
  | 0x21 => pickSelector sub [.boxv]
  | 0x22 => pickSelector sub [.boxhv]
  | 0x23 => pickSelector sub [.gblur]
  | 0x30 => pickSelector sub
      [.blendNormal, .blendMultiply, .blendScreen, .blendOverlay, .blendHardlight, .blendDarken, .blendLighten,
        .blendDodge, .blendBurn, .blendSoftlight, .blendDifference, .blendExclusion]
  | 0x31 => pickSelector sub [.compOver, .compIn, .compOut, .compAtop, .compXor]
  | 0x32 => pickSelector sub [.arith]
  | _ => .error .unknownOpcode

/-- The command a word names, or why it names none (R82, R85). -/
def decode (w : Word) : Except DecodeError Instr :=
  if wordRsv w = 0 then decodeFields (wordOpc w).toNat (wordSub w).toNat else .error .reservedBits

/-- The word of a command (the first column of R83's table). -/
def encode : Instr → Word
  | .nop => 0x00000000#32
  | .copy => 0x00000001#32
  | .subsurfS0 => 0x00000002#32
  | .subsurfS1 => 0x00000102#32
  | .subsurfS2 => 0x00000202#32
  | .cmx => 0x00000010#32
  | .lum2a => 0x00000011#32
  | .s2l => 0x00000012#32
  | .l2s => 0x00000013#32
  | .boxh => 0x00000020#32
  | .boxv => 0x00000021#32
  | .boxhv => 0x00000022#32
  | .gblur => 0x00000023#32
  | .blendNormal => 0x00000030#32
  | .blendMultiply => 0x00000130#32
  | .blendScreen => 0x00000230#32
  | .blendOverlay => 0x00000330#32
  | .blendHardlight => 0x00000430#32
  | .blendDarken => 0x00000530#32
  | .blendLighten => 0x00000630#32
  | .blendDodge => 0x00000730#32
  | .blendBurn => 0x00000830#32
  | .blendSoftlight => 0x00000930#32
  | .blendDifference => 0x00000A30#32
  | .blendExclusion => 0x00000B30#32
  | .compOver => 0x00000031#32
  | .compIn => 0x00000131#32
  | .compOut => 0x00000231#32
  | .compAtop => 0x00000331#32
  | .compXor => 0x00000431#32
  | .arith => 0x00000032#32

/-- The instruction the decoder reads from the `nbits` bits of `w`. There is one length, 32 bits (R80): bits above are
part of no command. -/
def decodeTableWord (nbits w : Nat) : Option Instr :=
  if w % 2 ^ nbits < 2 ^ 32 then
    match decode (BitVec.ofNat 32 (w % 2 ^ nbits)) with
    | .ok i => some i
    | .error _ => none
  else none

end Sys2Proof
end

