-- ==== Sys2Proof/Machine/State.lean ====
section
/-! DEFINITION. The state of a PFE system (`10_state.md` R20), why a step can stop, and the state after reset (R54). -/

namespace Sys2Proof.Machine

/-- A surface descriptor slot (`00_scope.md` R7 `NSLOT`, `10_state.md` R33). -/
inductive Slot where
  /-- The input, or the source. -/
  | s0
  /-- The backdrop. -/
  | s1
  /-- The output. -/
  | s2
  deriving DecidableEq, Repr

/-- The three registers of one slot (R33). -/
structure SlotRegs where
  /-- `Sn_BASE`: element index of the pixel at (0, 0). -/
  base : Word
  /-- `Sn_DIM`: width in bits 15:0, height in bits 31:16. -/
  dim : Word
  /-- `Sn_STRIDE`: elements from one row's first pixel to the next row's. -/
  stride : Word
  deriving DecidableEq, Repr

/-- The 47 implemented registers, by name (R30). -/
inductive Reg where
  | id | cmd | status | illcmd | effdim | lastk
  | base (n : Slot) | dim (n : Slot) | stride (n : Slot)
  | subX | subY | subW | subH
  | kx | ky | stdX | stdY
  | k1 | k2 | k3 | k4
  | mat (n : Fin 20)
  deriving DecidableEq, Repr

/-- Access class of a register (R30). -/
inductive Access where
  | rw | ro | wo | w1c
  deriving DecidableEq, Repr

/-- What the world outside the engine can do, between commands (R8, R60, R73, `30_encoding.md` R86, R260). -/
inductive HostEvent where
  /-- The transaction `WR(i, v)` (R86). -/
  | wr (i : RegIndex) (v : Word)
  /-- The transaction `RD(i)` (R86). -/
  | rd (i : RegIndex)
  /-- The host writes an element of pixel memory by its own means (R60; log 9). -/
  | poke (addr : Nat) (v : Word)
  /-- The host reads an element of pixel memory by its own means (R60; log 9). -/
  | peek (addr : Nat)
  /-- The platform applies reset (R260). -/
  | reset
  deriving DecidableEq, Repr

/-- Pixel memory as the bytes that have been written since power-up: byte address and byte, addresses strictly rising.
Element `e` is the bytes `4e` to `4e+3` (R65; log 3). A byte that is not listed has no value here: nothing has written
it, and it reads as a free value (R262, U14; log 6). -/
abbrev Memory := List Host.Cell

/-- The state of the machine between two steps. The transient engine state of R50 to R53 is dead there, and has no
field (R53). `ID` and `CMD` have no storage (R31, R32; log 20). -/
structure State where
  /-- `STATUS` (R34). -/
  status : Word
  /-- `ILLCMD` (R35). -/
  illcmd : Word
  /-- `EFFDIM` (R36). -/
  effdim : Word
  /-- `LASTK` (R37). -/
  lastk : Word
  /-- Slot S0 (R33). -/
  s0 : SlotRegs
  /-- Slot S1 (R33). -/
  s1 : SlotRegs
  /-- Slot S2 (R33). -/
  s2 : SlotRegs
  /-- `SUB_X` (R38). -/
  subX : Word
  /-- `SUB_Y` (R38). -/
  subY : Word
  /-- `SUB_W` (R38). -/
  subW : Word
  /-- `SUB_H` (R38). -/
  subH : Word
  /-- `KX` (R39). -/
  kx : Word
  /-- `KY` (R39). -/
  ky : Word
  /-- `STD_X` (R40). -/
  stdX : Word
  /-- `STD_Y` (R40). -/
  stdY : Word
  /-- `K1` (R41). -/
  k1 : Word
  /-- `K2` (R41). -/
  k2 : Word
  /-- `K3` (R41). -/
  k3 : Word
  /-- `K4` (R41). -/
  k4 : Word
  /-- `M0` to `M19` (R42). -/
  m : Vector Word 20
  /-- Pixel memory (R45, R60). -/
  mem : Memory
  /-- The MODEL's own: the host's coming actions, in order (log 7). -/
  pending : List HostEvent
  /-- The MODEL's own: what the host's reads have returned so far, oldest first (log 7). -/
  replies : List Word
  /-- The parameters of the instance, which the step relation takes as an argument (R7, R21; log 1). -/
  params : Params
  deriving DecidableEq, Repr

/-- Why the machine stops with a fault. -/
inductive Fault where
  /-- An access formed the element address `addr`, outside `0 .. MEM_ELEMS-1` (`20_memory.md` R68, D30, U1). Raised by
  every access to pixel memory, an engine's or a host's. Safe: the spec calls the case undefined and makes no claim
  about the run past this point, and the model gives it no next state. -/
  | outsidePixelMemory (addr : Nat)
  deriving DecidableEq, Repr

/-- Why an instruction has no meaning. -/
inductive Refusal where
  /-- The instruction has no meaning yet. Raised by `exec` for no instruction of this model. Safe: no next state. -/
  | notModelled (mnemonic : String)
  deriving DecidableEq, Repr

/-- An empty surface descriptor, the reset value of a slot (R54). -/
def SlotRegs.zero : SlotRegs := { base := 0, dim := 0, stride := 0 }

/-- The machine right after reset at power-up (R54, R260): every register 0, `ID` its constant, memory with nothing
listed, no host action pending, and the free parameters of the instance. -/
def State.reset : State where
  status := 0
  illcmd := 0
  effdim := 0
  lastk := 0
  s0 := SlotRegs.zero
  s1 := SlotRegs.zero
  s2 := SlotRegs.zero
  subX := 0
  subY := 0
  subW := 0
  subH := 0
  kx := 0
  ky := 0
  stdX := 0
  stdY := 0
  k1 := 0
  k2 := 0
  k3 := 0
  k4 := 0
  m := Vector.replicate 20 0
  mem := []
  pending := []
  replies := []
  params := Config.params

end Sys2Proof.Machine
end

