-- ==== Sys2Proof/Machine/Flags.lean ====
section
/-! DEFINITION. The PFE's only flag, `STATUS.ILL` (`10_state.md` R34, R44). No command reads or writes it but an illegal
one (`60_exceptions.md` R241). -/

namespace Sys2Proof.Machine

/-- The bit of `STATUS` that holds `ILL` (R34). -/
def illMask : Word := 0x00000002#32

/-- `STATUS.ILL` (R34). -/
def illSet (status : Word) : Bool := status.getLsbD 1

/-- What a host reads from `STATUS` (R34): `ILL`; `BUSY` and the reserved bits read 0 (log 12). -/
def statusRead (status : Word) : Word := status &&& illMask

/-- `STATUS` after an illegal command (R241). -/
def statusRaise (status : Word) : Word := status ||| illMask

/-- `STATUS` after a host write of `v`: bit 1 is cleared when `v[1] = 1`, every other bit of `v` is ignored (R23). -/
def statusWrite (status v : Word) : Word := if v.getLsbD 1 then status &&& ~~~illMask else status

end Sys2Proof.Machine
end

