-- ==== Sys2Proof/Machine/Float.lean ====
section
/-! DEFINITION. IEEE 754 binary32 and binary64 arithmetic (`00_scope.md` R12, `42_box_blur.md` R161, D8, D10, G5): the
exact result as integers, rounded once, to nearest with ties to even; subnormals are ordinary values; no flags. A NaN
carries no payload: `ClampF` and the kernel size map all NaNs alike (G5; log 14). -/

namespace Sys2Proof.Machine

/-- A binary format: significand bits with the hidden bit, and the least and greatest exponent of the unit in the last
place. -/
structure FloatFormat where
  prec : Nat
  emin : Int
  emax : Int
  deriving DecidableEq, Repr

/-- IEEE 754 binary32 (R7 `FLT`). -/
def binary32 : FloatFormat := { prec := 24, emin := -149, emax := 104 }

/-- IEEE 754 binary64 (R7 `KFLT`). -/
def binary64 : FloatFormat := { prec := 53, emin := -1074, emax := 971 }

/-- A floating-point datum. `fin neg sig ex` is `sig * 2^ex`, negated if `neg`; zero has a sign. -/
inductive Flt where
  | nan
  | inf (neg : Bool)
  | fin (neg : Bool) (sig : Nat) (ex : Int)
  deriving DecidableEq, Repr

/-- `f32_of_bits` (R12): the binary32 datum of a register value. -/
def f32OfBits (w : Word) : Flt :=
  let neg := w.getLsbD 31
  let e := (w.extractLsb' 23 8).toNat
  let f := (w.extractLsb' 0 23).toNat
  if e = 255 then
    if f = 0 then .inf neg else .nan
  else if e = 0 then .fin neg f (-149)
  else .fin neg (2 ^ 23 + f) ((e : Int) - 150)

/-- `sig / 2^n`, to nearest with ties to even. -/
def shiftNearest (sig n : Nat) : Nat :=
  let q := sig / 2 ^ n
  let r := sig % 2 ^ n
  if 2 * r < 2 ^ n then q else if 2 ^ n < 2 * r then q + 1 else q + q % 2

/-- The exponent of the unit in the last place of the datum nearest `sig * 2^ex`, before a carry. -/
def unitOf (F : FloatFormat) (sig : Nat) (ex : Int) : Int :=
  max (ex + (sig.log2 + 1 : Nat) - F.prec) F.emin

/-- A significand of at most `2^prec` units of `2^t` as a datum: a carry out of the significand moves the exponent, and
an exponent above the format's is an infinity. -/
def packDatum (F : FloatFormat) (neg : Bool) (q : Nat) (t : Int) : Flt :=
  if q = 2 ^ F.prec then
    if F.emax < t + 1 then .inf neg else .fin neg (2 ^ (F.prec - 1)) (t + 1)
  else if F.emax < t then .inf neg
  else .fin neg q t

/-- The datum nearest `sig * 2^ex`, ties to even. -/
def roundTo (F : FloatFormat) (neg : Bool) (sig : Nat) (ex : Int) : Flt :=
  if sig = 0 then .fin neg 0 F.emin
  else
    let t := unitOf F sig ex
    packDatum F neg (if t ≤ ex then sig * 2 ^ (ex - t).toNat else shiftNearest sig (t - ex).toNat) t

/-- The datum nearest `(num / den) * 2^ex`, for `den > 0`: enough quotient bits, and a sticky bit for the rest. -/
def roundQuotient (F : FloatFormat) (neg : Bool) (num den : Nat) (ex : Int) : Flt :=
  let k := F.prec + 2 + den.log2
  let q := num * 2 ^ k / den
  let sticky := if num * 2 ^ k % den = 0 then 0 else 1
  roundTo F neg (2 * q + sticky) (ex - k - 1)

/-- `sig`, negated if `neg`. -/
def signedInt (neg : Bool) (sig : Nat) : Int := if neg then -(sig : Int) else sig

/-- Addition in a format: the exact sum rounded once; an exact zero is `+0` unless both operands are `-0`. -/
def fltAdd (F : FloatFormat) : Flt → Flt → Flt
  | .nan, _ => .nan
  | _, .nan => .nan
  | .inf n, .inf n' => if n = n' then .inf n else .nan
  | .inf n, .fin _ _ _ => .inf n
  | .fin _ _ _, .inf n => .inf n
  | .fin n m e, .fin n' m' e' =>
    let t := min e e'
    let v := signedInt n (m * 2 ^ (e - t).toNat) + signedInt n' (m' * 2 ^ (e' - t).toNat)
    if v = 0 then .fin (n && n') 0 F.emin else roundTo F (decide (v < 0)) v.natAbs t

/-- Multiplication in a format: the exact product rounded once. -/
def fltMul (F : FloatFormat) : Flt → Flt → Flt
  | .nan, _ => .nan
  | _, .nan => .nan
  | .inf n, .inf n' => .inf (n != n')
  | .inf n, .fin n' m _ => if m = 0 then .nan else .inf (n != n')
  | .fin n m _, .inf n' => if m = 0 then .nan else .inf (n != n')
  | .fin n m e, .fin n' m' e' => roundTo F (n != n') (m * m') (e + e')

/-- Division in a format: the exact quotient rounded once. -/
def fltDiv (F : FloatFormat) : Flt → Flt → Flt
  | .nan, _ => .nan
  | _, .nan => .nan
  | .inf _, .inf _ => .nan
  | .inf n, .fin n' _ _ => .inf (n != n')
  | .fin n _ _, .inf n' => .fin (n != n') 0 F.emin
  | .fin n m e, .fin n' m' e' =>
    if m' = 0 then (if m = 0 then .nan else .inf (n != n'))
    else roundQuotient F (n != n') m m' (e - e')

/-- `fadd` of R12. -/
def fadd (a b : Flt) : Flt := fltAdd binary32 a b

/-- `fmul` of R12. -/
def fmul (a b : Flt) : Flt := fltMul binary32 a b

/-- `fdiv` of R12. -/
def fdiv (a b : Flt) : Flt := fltDiv binary32 a b

/-- `f32_of_int` of R12, exact for `0 ≤ n ≤ 65025`. -/
def f32OfInt (n : Nat) : Flt := roundTo binary32 false n 0

/-- `floor` of a finite datum. -/
def floorFin (neg : Bool) (sig : Nat) (ex : Int) : Int :=
  if 0 ≤ ex then signedInt neg (sig * 2 ^ ex.toNat) else signedInt neg sig / 2 ^ (-ex).toNat

/-- The binary32 bit pattern of a datum of binary32, and the quiet NaN `0x7FC00000` for a NaN (G6). -/
def bitsOfF32 : Flt → Word
  | .nan => 0x7FC00000#32
  | .inf neg => BitVec.ofBool neg ++ 0xFF#8 ++ 0#23
  | .fin neg sig ex =>
    if sig < 2 ^ 23 then BitVec.ofBool neg ++ 0#8 ++ BitVec.ofNat 23 sig
    else BitVec.ofBool neg ++ BitVec.ofNat 8 (ex + 150).toNat ++ BitVec.ofNat 23 sig

end Sys2Proof.Machine
end

