-- ==== Sys2Proof/Machine/Operands.lean ====
section
/-! DEFINITION. Every operand form of the PFE: surfaces read from slots (`00_scope.md` R14, `10_state.md` R33), pixels
and their codec (`40_surface_codec.md` R100 to R104), signed and floating-point register operands, and the overlap of
surfaces (R110). -/

namespace Sys2Proof.Machine

/-! ## Integers (R11) -/

/-- `a >> n`: floor division by `2^n`, also for a negative `a` (R11, D23). -/
def asr (a : Int) (n : Nat) : Int := a / 2 ^ n

/-- `clampi(v, lo, hi)` (R11). -/
def clampi (v lo hi : Int) : Int := min (max v lo) hi

/-- `sint32(v)` (R13): the signed integer a register value denotes. -/
def sint32 (v : Word) : Int := v.toInt

/-! ## Surfaces (R14, R33) -/

/-- A surface value (R14): a view of pixel memory. -/
structure Surface where
  base : Nat
  width : Nat
  height : Nat
  stride : Nat
  deriving DecidableEq, Repr

/-- `Addr(S, x, y)`: an unbounded integer, no wrap (R14, R62). -/
def Surface.addr (S : Surface) (x y : Nat) : Nat := S.base + y * S.stride + x

/-- The width field of a `DIM` register, bits 15:0 (R33). -/
def dimWidth (v : Word) : Nat := (v.extractLsb' 0 16).toNat

/-- The height field of a `DIM` register, bits 31:16 (R33). -/
def dimHeight (v : Word) : Nat := (v.extractLsb' 16 16).toNat

/-- Two 16-bit sizes in one register, the second in bits 31:16 (R33, R36, R37). -/
def packDim (lo hi : Nat) : Word := BitVec.ofNat 16 hi ++ BitVec.ofNat 16 lo

/-- The surface three slot registers describe (R33). -/
def SlotRegs.surface (r : SlotRegs) : Surface where
  base := r.base.toNat
  width := dimWidth r.dim
  height := dimHeight r.dim
  stride := r.stride.toNat

/-- The registers of slot `n`. -/
def State.slot (s : State) : Slot → SlotRegs
  | .s0 => s.s0
  | .s1 => s.s1
  | .s2 => s.s2

/-- `Surf(n)` (R33). -/
def surf (s : State) (n : Slot) : Surface := (s.slot n).surface

/-- The effective width and height of a non-empty set of surfaces: the least of each (R110). -/
def overlap (S : Surface) (T : List Surface) : Nat × Nat :=
  (T.foldl (fun w U => min w U.width) S.width, T.foldl (fun h U => min h U.height) S.height)

/-! ## Pixels (R63, R100 to R104) -/

/-- The four channels of a pixel element (R63). -/
structure Pixel where
  a : Byte
  r : Byte
  g : Byte
  b : Byte
  deriving DecidableEq, Repr

/-- `Unpack(p)` (R63, R100). -/
def unpack (p : Word) : Pixel where
  a := p.extractLsb' 24 8
  r := p.extractLsb' 16 8
  g := p.extractLsb' 8 8
  b := p.extractLsb' 0 8

/-- `Pack(a, r, g, b)` (R63, R100). -/
def pack (q : Pixel) : Word := q.a ++ q.r ++ q.g ++ q.b

/-- `Premul(c, a)` (R101): `(c * (a + 1)) >> 8`, which is at most 255. -/
def premul (c a : Byte) : Byte := BitVec.ofNat 8 (c.toNat * (a.toNat + 1) / 2 ^ 8)

/-- `Unpremul(c, a)` (R102): the full integer, in 0..65025 (D18). -/
def unpremul (c a : Byte) : Nat := if a.toNat = 0 then 0 else 255 * c.toNat / a.toNat

/-- `ClampI(v)` (R104). -/
def clampI (v : Int) : Byte := BitVec.ofNat 8 (clampi v 0 255).toNat

/-- `ClampF(v)` (R103): 0 for a NaN (D9) and for a negative number, 255 above 255, else the integer part. -/
def clampF : Flt → Byte
  | .nan => 0
  | .inf neg => if neg then 0 else 255
  | .fin neg sig ex =>
    if neg then 0
    else if 255 < floorFin false sig ex then 255
    else BitVec.ofNat 8 (floorFin false sig ex).toNat

/-- `div255(x)` (R190). -/
def div255 (x : Int) : Int := asr (x + asr x 8 + 0x80) 8

/-! ## Scalar operands (R38 to R42) -/

/-- The colour matrix `M0` to `M19` as binary32 data, read once before the loop (R42, R131). -/
def matrixOf (s : State) (n : Fin 20) : Flt := f32OfBits (s.m.get n)

end Sys2Proof.Machine
end

