-- ==== Sys2Proof/Machine/Ops.lean ====
section
/-! DEFINITION. The named operations over memory and registers: pixel memory by the byte and by the element
(`20_memory.md` R61, R64, R65, R68), the register file (`10_state.md` R22 to R25, R30), taking the one exception and
returning from it (`60_exceptions.md` R241, R242), reset (R260, R262), and the loops and skeletons that the commands
share (`40_surface_codec.md` R110, R111, R114; `43_blend.md` R192; `44_composite.md` R220). -/

namespace Sys2Proof.Machine

/-- What a step or a meaning answers. -/
abbrev Result := Host.Outcome State Fault Refusal

/-! ## Pixel memory by the byte -/

/-- The byte at a byte address, if anything has written it since power-up. -/
def Memory.read? : Memory → Nat → Option Byte
  | [], _ => none
  | (a, v) :: rest, i => if i = a then some v else if i < a then none else Memory.read? rest i

/-- A byte stored at a byte address, in address order. -/
def Memory.write : Memory → Nat → Byte → Memory
  | [], i, v => [(i, v)]
  | (a, w) :: rest, i, v =>
    if i < a then (i, v) :: (a, w) :: rest
    else if i = a then (i, v) :: rest
    else (a, w) :: Memory.write rest i v

/-- Every address of the list is above `lo`, and they rise strictly. -/
def Memory.risingFrom : Nat → Memory → Bool
  | _, [] => true
  | lo, (a, _) :: rest => decide (lo < a) && Memory.risingFrom a rest

/-- The canonical form: addresses rise strictly. An unlisted byte reads as no value, so every listed byte differs from
what an unlisted one reads as. -/
def Memory.wf : Memory → Bool
  | [] => true
  | (a, _) :: rest => Memory.risingFrom a rest

/-- Every listed byte belongs to an element below `elems`. -/
def Memory.within (elems : Nat) (m : Memory) : Bool := m.all fun c => decide (c.1 < 4 * elems)

/-- The byte of pixel memory at a byte address, as the host sees it (R64): a byte nothing has written is any value
(R262, U14; log 6). -/
def State.byteAt (s : State) (a : Nat) : Byte := (s.mem.read? a).getD (Config.powerUpByte a)

/-! ## Pixel memory by the element (R61, R63, R64) -/

/-- The byte address of bits `8j+7 .. 8j` of element `e`, under the host's byte order (R64, R65; log 3). -/
def laneAddr : ByteOrder → Nat → Nat → Nat
  | .little, e, j => 4 * e + j
  | .big, e, j => 4 * e + (3 - j)

/-- `Mem[e]` (R45, R61). -/
def State.elem (s : State) (e : Nat) : Word :=
  let lane := fun j => s.byteAt (laneAddr s.params.byteOrder e j)
  lane 3 ++ lane 2 ++ lane 1 ++ lane 0

/-- Memory after `Mem[e] <- v` (R61): all 32 bits, no other element. -/
def Memory.setElem (m : Memory) (o : ByteOrder) (e : Nat) (v : Word) : Memory :=
  (((m.write (laneAddr o e 0) (v.extractLsb' 0 8)).write (laneAddr o e 1) (v.extractLsb' 8 8)).write
    (laneAddr o e 2) (v.extractLsb' 16 8)).write (laneAddr o e 3) (v.extractLsb' 24 8)

/-- `Mem[e] <- v` (R61), for an element that exists. -/
def State.setElem (s : State) (e : Nat) (v : Word) : State :=
  { s with mem := s.mem.setElem s.params.byteOrder e v }

/-- `MemRead(e, 1)` (R61); an element that does not exist is a fault (R68). -/
def memRead (s : State) (e : Nat) : Except Fault Word :=
  if e < s.params.memElems then .ok (s.elem e) else .error (.outsidePixelMemory e)

/-- `MemWrite(e, 1, v)` (R61); an element that does not exist is a fault (R68). -/
def memWrite (s : State) (e : Nat) (v : Word) : Except Fault State :=
  if e < s.params.memElems then .ok (s.setElem e v) else .error (.outsidePixelMemory e)

/-- The outcome of a sequence of accesses. -/
def finish : Except Fault State → Result
  | .ok s => .next s
  | .error f => .fault f

/-! ## The register file (R22 to R25, R30) -/

/-- The register an index names; `none` for a reserved index (R25, R30). -/
def regOfIndex (i : RegIndex) : Option Reg :=
  match i.toNat with
  | 0x00 => some .id
  | 0x01 => some .cmd
  | 0x02 => some .status
  | 0x03 => some .illcmd
  | 0x04 => some .effdim
  | 0x05 => some .lastk
  | 0x08 => some (.base .s0)
  | 0x09 => some (.dim .s0)
  | 0x0A => some (.stride .s0)
  | 0x0C => some (.base .s1)
  | 0x0D => some (.dim .s1)
  | 0x0E => some (.stride .s1)
  | 0x10 => some (.base .s2)
  | 0x11 => some (.dim .s2)
  | 0x12 => some (.stride .s2)
  | 0x14 => some .subX
  | 0x15 => some .subY
  | 0x16 => some .subW
  | 0x17 => some .subH
  | 0x18 => some .kx
  | 0x19 => some .ky
  | 0x1A => some .stdX
  | 0x1B => some .stdY
  | 0x1C => some .k1
  | 0x1D => some .k2
  | 0x1E => some .k3
  | 0x1F => some .k4
  | n => if h : 0x20 ≤ n ∧ n < 0x34 then some (.mat ⟨n - 0x20, by omega⟩) else none

/-- The number of a slot. -/
def Slot.number : Slot → Nat
  | .s0 => 0
  | .s1 => 1
  | .s2 => 2

/-- The index of a register (R30, R33). -/
def regIndex : Reg → RegIndex
  | .id => 0x00
  | .cmd => 0x01
  | .status => 0x02
  | .illcmd => 0x03
  | .effdim => 0x04
  | .lastk => 0x05
  | .base n => BitVec.ofNat 6 (0x08 + 4 * n.number)
  | .dim n => BitVec.ofNat 6 (0x09 + 4 * n.number)
  | .stride n => BitVec.ofNat 6 (0x0A + 4 * n.number)
  | .subX => 0x14
  | .subY => 0x15
  | .subW => 0x16
  | .subH => 0x17
  | .kx => 0x18
  | .ky => 0x19
  | .stdX => 0x1A
  | .stdY => 0x1B
  | .k1 => 0x1C
  | .k2 => 0x1D
  | .k3 => 0x1E
  | .k4 => 0x1F
  | .mat n => BitVec.ofNat 6 (0x20 + n.val)

/-- The access class of a register (R30). -/
def accessOf : Reg → Access
  | .id | .illcmd | .effdim | .lastk => .ro
  | .cmd => .wo
  | .status => .w1c
  | .base _ | .dim _ | .stride _ | .subX | .subY | .subW | .subH | .kx | .ky | .stdX | .stdY
  | .k1 | .k2 | .k3 | .k4 | .mat _ => .rw

/-- What reading a register returns (R24, R31, R32, R34). -/
def regRead (s : State) : Reg → Word
  | .id => Config.idValue
  | .cmd => 0
  | .status => statusRead s.status
  | .illcmd => s.illcmd
  | .effdim => s.effdim
  | .lastk => s.lastk
  | .base n => (s.slot n).base
  | .dim n => (s.slot n).dim
  | .stride n => (s.slot n).stride
  | .subX => s.subX
  | .subY => s.subY
  | .subW => s.subW
  | .subH => s.subH
  | .kx => s.kx
  | .ky => s.ky
  | .stdX => s.stdX
  | .stdY => s.stdY
  | .k1 => s.k1
  | .k2 => s.k2
  | .k3 => s.k3
  | .k4 => s.k4
  | .mat n => s.m.get n

/-- What a host read of an index returns: 0 for a reserved one (R24, R25). -/
def indexRead (s : State) (i : RegIndex) : Word :=
  match regOfIndex i with
  | some r => regRead s r
  | none => 0

/-- The state with the registers of slot `n` replaced. -/
def State.setSlot (s : State) (n : Slot) (r : SlotRegs) : State :=
  match n with
  | .s0 => { s with s0 := r }
  | .s1 => { s with s1 := r }
  | .s2 => { s with s2 := r }

/-- A value stored in a register of class `RW`: all 32 bits (R23). The other classes store nothing here. -/
def regStore (s : State) (r : Reg) (v : Word) : State :=
  match r with
  | .id | .cmd | .status | .illcmd | .effdim | .lastk => s
  | .base n => s.setSlot n { s.slot n with base := v }
  | .dim n => s.setSlot n { s.slot n with dim := v }
  | .stride n => s.setSlot n { s.slot n with stride := v }
  | .subX => { s with subX := v }
  | .subY => { s with subY := v }
  | .subW => { s with subW := v }
  | .subH => { s with subH := v }
  | .kx => { s with kx := v }
  | .ky => { s with ky := v }
  | .stdX => { s with stdX := v }
  | .stdY => { s with stdY := v }
  | .k1 => { s with k1 := v }
  | .k2 => { s with k2 := v }
  | .k3 => { s with k3 := v }
  | .k4 => { s with k4 := v }
  | .mat n => { s with m := s.m.set n.val v }

/-! ## The exception, the return from it, and reset -/

/-- `raise IllegalCommand(c)` (R241): the first offender is kept (R35). -/
def raiseIllegal (s : State) (c : Word) : State :=
  { s with
    illcmd := if illSet s.status then s.illcmd else c
    status := statusRaise s.status }

/-- A host write of `STATUS` (R23), with which the host returns from the exception (R242): nothing is restored, `ILLCMD`
is kept (R35). -/
def writeStatus (s : State) (v : Word) : State := { s with status := statusWrite s.status v }

/-- Reset (R260): every register at its reset value; pixel memory is not touched (R262), and neither are the host's
own lists and the instance's parameters. -/
def applyReset (s : State) : State :=
  { State.reset with mem := s.mem, pending := s.pending, replies := s.replies, params := s.params }

/-! ## Loops and skeletons -/

/-- `for i = start .. start+count-1`, ascending; the first access that faults ends the loop. -/
def forRange {σ : Type} (body : Nat → σ → Except Fault σ) : (start count : Nat) → σ → Except Fault σ
  | _, 0, s => .ok s
  | start, count + 1, s => (body start s).bind (forRange body (start + 1) count)

/-- The pixel loop (R111): `y` ascending, and for each `y`, `x` ascending. -/
def pixelLoop (w h : Nat) (body : Nat → Nat → State → Except Fault State) : State → Except Fault State :=
  forRange (fun y => forRange (fun x => body x y) 0 w) 0 h

/-- Read the pixel at `(x, y)` of `A`, write its image at `(x, y)` of `B` (R71, R111). -/
def mapPixel (A B : Surface) (f : Word → Word) (x y : Nat) (s : State) : Except Fault State :=
  (memRead s (A.addr x y)).bind fun p => memWrite s (B.addr x y) (f p)

/-- Read the source pixel, then the backdrop pixel, then write the output pixel (R71, R192, R220). -/
def zipPixel (A B C : Surface) (f : Word → Word → Word) (x y : Nat) (s : State) : Except Fault State :=
  (memRead s (A.addr x y)).bind fun p =>
    (memRead s (B.addr x y)).bind fun q => memWrite s (C.addr x y) (f p q)

/-- `CopyRegion(A, B, w, h)` (R114). -/
def copyRegion (A B : Surface) (w h : Nat) : State → Except Fault State :=
  pixelLoop w h (mapPixel A B fun p => p)

/-- The effective size of a one-input command: `T = {S0, S2}` (R110). -/
def sizeOne (s : State) : Nat × Nat := overlap (surf s .s0) [surf s .s2]

/-- The effective size of a two-input command: `T = {S0, S1, S2}` (R110). -/
def sizeTwo (s : State) : Nat × Nat := overlap (surf s .s0) [surf s .s1, surf s .s2]

/-- `EFFDIM <- (h << 16) | w` (R36, R110), before any pixel is touched. -/
def latchSize (s : State) (d : Nat × Nat) : State := { s with effdim := packDim d.1 d.2 }

/-- A one-input per-pixel command: S0 to S2 (R111, R131, R133, R135). -/
def oneInput (f : Word → Word) (s : State) : Result :=
  finish (pixelLoop (sizeOne s).1 (sizeOne s).2 (mapPixel (surf s .s0) (surf s .s2) f) (latchSize s (sizeOne s)))

/-- A two-input per-pixel command: S0 and S1 to S2 (R111, R192, R220, R230). -/
def twoInput (f : Word → Word → Word) (s : State) : Result :=
  finish (pixelLoop (sizeTwo s).1 (sizeTwo s).2 (zipPixel (surf s .s0) (surf s .s1) (surf s .s2) f)
    (latchSize s (sizeTwo s)))

end Sys2Proof.Machine
end

