-- ==== Sys2Proof/Machine/Blend.lean ====
section
/-! DEFINITION. The blend unit: the twelve blend modes (`43_blend.md` R190 to R206). The channel functions of nine modes
are the open parameter `BLEND_FN` (D22): `params.blendFill` says whether an instance has the spec's defaults or
functions of its own (log 5). -/

namespace Sys2Proof.Machine

/-- A channel function `f(s, d, sa, da)` (R192). -/
abbrev ChannelFn := Int → Int → Int → Int → Int

/-- `BlendAlpha(sa, da)` (R191). -/
def blendAlpha (sa da : Int) : Int := sa + da - div255 (sa * da)

/-- `Blend(f)` on a source and a backdrop pixel (R192). -/
def blendPixel (f : ChannelFn) (p q : Word) : Word :=
  let S := unpack p
  let D := unpack q
  let sa : Int := S.a.toNat
  let da : Int := D.a.toNat
  pack
    { a := clampI (blendAlpha sa da)
      r := clampI (f S.r.toNat D.r.toNat sa da)
      g := clampI (f S.g.toNat D.g.toNat sa da)
      b := clampI (f S.b.toNat D.b.toNat sa da) }

/-- `U(s, d, sa, da)` (R193). -/
def uncovered (s d sa da : Int) : Int := s * (255 - da) + d * (255 - sa)

/-- Normal (R195). -/
def fnNormal (s d sa _da : Int) : Int := s + div255 (d * (255 - sa))

/-- Multiply (R196). -/
def fnMultiply (s d sa da : Int) : Int := div255 (s * d + s * (255 - da) + d * (255 - sa))

/-- Screen (R197). -/
def fnScreen (s d _sa _da : Int) : Int := s + d - div255 (s * d)

/-- The first expression of overlay and hard-light (R198, R199). -/
def overlayLow : BlendFill → ChannelFn
  | .defaults, s, d, sa, da => div255 (2 * s * d + uncovered s d sa da)
  | .custom, s, d, sa, da => Config.overlayLow s d sa da

/-- The second expression of overlay and hard-light (R198, R199). -/
def overlayHigh : BlendFill → ChannelFn
  | .defaults, s, d, sa, da => div255 (sa * da - 2 * (da - d) * (sa - s) + uncovered s d sa da)
  | .custom, s, d, sa, da => Config.overlayHigh s d sa da

/-- Overlay (R198): branches on `2*d <= da`. -/
def fnOverlay (fill : BlendFill) (s d sa da : Int) : Int :=
  if 2 * d ≤ da then overlayLow fill s d sa da else overlayHigh fill s d sa da

/-- Hard-light (R199): overlay's two expressions under `2*s <= sa`. -/
def fnHardlight (fill : BlendFill) (s d sa da : Int) : Int :=
  if 2 * s ≤ sa then overlayLow fill s d sa da else overlayHigh fill s d sa da

/-- Darken (R200). -/
def fnDarken : BlendFill → ChannelFn
  | .defaults, s, d, sa, da =>
    if s * da < d * sa then s + div255 (d * (255 - sa)) else d + div255 (s * (255 - da))
  | .custom, s, d, sa, da => Config.darken s d sa da

/-- Lighten (R201). -/
def fnLighten : BlendFill → ChannelFn
  | .defaults, s, d, sa, da =>
    if d * sa < s * da then s + div255 (d * (255 - sa)) else d + div255 (s * (255 - da))
  | .custom, s, d, sa, da => Config.lighten s d sa da

/-- Color-dodge (R202). -/
def fnDodge : BlendFill → ChannelFn
  | .defaults, s, d, sa, da =>
    if d = 0 then div255 (s * (255 - da))
    else if sa ≤ s then div255 (sa * da + uncovered s d sa da)
    else div255 (min (sa * da) (d * sa * sa / (sa - s)) + uncovered s d sa da)
  | .custom, s, d, sa, da => Config.dodge s d sa da

/-- Color-burn (R203). -/
def fnBurn : BlendFill → ChannelFn
  | .defaults, s, d, sa, da =>
    if da ≤ d then div255 (sa * da + uncovered s d sa da)
    else if s = 0 then div255 (d * (255 - sa))
    else div255 (sa * da - min (sa * da) ((da - d) * sa * sa / s) + uncovered s d sa da)
  | .custom, s, d, sa, da => Config.burn s d sa da

/-- Soft-light (R204, U11): no default; a free function of its four arguments under every filling. -/
def fnSoftlight (s d sa da : Int) : Int := Config.softlight s d sa da

/-- Difference (R205). -/
def fnDifference : BlendFill → ChannelFn
  | .defaults, s, d, sa, da => s + d - 2 * div255 (min (s * da) (d * sa))
  | .custom, s, d, sa, da => Config.difference s d sa da

/-- Exclusion (R206). -/
def fnExclusion : BlendFill → ChannelFn
  | .defaults, s, d, _, _ => s + d - 2 * div255 (s * d)
  | .custom, s, d, sa, da => Config.exclusion s d sa da

/-- `BLEND.NORMAL` (R195). -/
def execBlendNormal (s : State) : Result := twoInput (blendPixel fnNormal) s

/-- `BLEND.MULTIPLY` (R196). -/
def execBlendMultiply (s : State) : Result := twoInput (blendPixel fnMultiply) s

/-- `BLEND.SCREEN` (R197). -/
def execBlendScreen (s : State) : Result := twoInput (blendPixel fnScreen) s

/-- `BLEND.OVERLAY` (R198). -/
def execBlendOverlay (s : State) : Result := twoInput (blendPixel (fnOverlay s.params.blendFill)) s

/-- `BLEND.HARDLIGHT` (R199). -/
def execBlendHardlight (s : State) : Result := twoInput (blendPixel (fnHardlight s.params.blendFill)) s

/-- `BLEND.DARKEN` (R200). -/
def execBlendDarken (s : State) : Result := twoInput (blendPixel (fnDarken s.params.blendFill)) s

/-- `BLEND.LIGHTEN` (R201). -/
def execBlendLighten (s : State) : Result := twoInput (blendPixel (fnLighten s.params.blendFill)) s

/-- `BLEND.DODGE` (R202). -/
def execBlendDodge (s : State) : Result := twoInput (blendPixel (fnDodge s.params.blendFill)) s

/-- `BLEND.BURN` (R203). -/
def execBlendBurn (s : State) : Result := twoInput (blendPixel (fnBurn s.params.blendFill)) s

/-- `BLEND.SOFTLIGHT` (R204). -/
def execBlendSoftlight (s : State) : Result := twoInput (blendPixel fnSoftlight) s

/-- `BLEND.DIFFERENCE` (R205). -/
def execBlendDifference (s : State) : Result := twoInput (blendPixel (fnDifference s.params.blendFill)) s

/-- `BLEND.EXCLUSION` (R206). -/
def execBlendExclusion (s : State) : Result := twoInput (blendPixel (fnExclusion s.params.blendFill)) s

end Sys2Proof.Machine
end

