-- ==== Sys2Proof/Machine/Blur.lean ====
section
/-! DEFINITION. The separable box-blur unit: `BOXH`, `BOXV`, `BOXHV`, `GBLUR` (`42_box_blur.md` R160 to R173). -/

namespace Sys2Proof.Machine

/-! ## Kernel size (R161, R162) -/

/-- The least and the greatest signed 32-bit integer, to which the kernel size saturates (R161, D10). -/
def kernelMin : Int := -(2 ^ 31)

/-- See `kernelMin`. -/
def kernelMax : Int := 2 ^ 31 - 1

/-- `std * KCONST + 0.5` in binary64, two roundings (R161, D10). A binary32 datum is a binary64 datum of the same
value. -/
def kernelReal (std : Flt) : Flt :=
  fltAdd binary64 (fltMul binary64 std (.fin false Config.kconstSig Config.kconstEx)) (.fin false (2 ^ 52) (-53))

/-- `floor`, saturated to signed 32 bits; 0 for a NaN (R161, D10). -/
def kernelFloor : Flt → Int
  | .nan => 0
  | .inf neg => if neg then kernelMin else kernelMax
  | .fin neg sig ex => clampi (floorFin neg sig ex) kernelMin kernelMax

/-- `KernelFromStd(sbits)` (R161). -/
def kernelFromStd (sbits : Word) : Int := kernelFloor (kernelReal (f32OfBits sbits))

/-- `CapK(k, extent)` (R162): 0 means a copy pass. -/
def capK (k : Int) (extent : Nat) : Nat := if k ≤ 0 then 0 else min (min k.toNat Config.scratchCap) extent

/-! ## One line (R163) -/

/-- The transient state of the line routine (R50, R51): the running sums, the scratch window, and the machine's state
as the line's accesses have left it. -/
structure Line where
  sumA : Nat
  sumR : Nat
  sumG : Nat
  sumB : Nat
  scr : Nat → Word
  st : State

/-- The start of a line: sums 0 (R51), scratch content unspecified (R50, U13; log 13). -/
def startLine (s : State) : Line :=
  { sumA := 0, sumR := 0, sumG := 0, sumB := 0, scr := Config.scratchAtStart, st := s }

/-- Take the pixel in a scratch slot out of the sums (R163). -/
def evict (slot : Nat) (L : Line) : Line :=
  let q := unpack (L.scr slot)
  { L with
    sumA := L.sumA - q.a.toNat
    sumR := L.sumR - q.r.toNat
    sumG := L.sumG - q.g.toNat
    sumB := L.sumB - q.b.toNat }

/-- Add a loaded pixel to the sums and store it in a scratch slot (R163). -/
def absorb (slot : Nat) (p : Word) (L : Line) : Line :=
  let q := unpack p
  { L with
    sumA := L.sumA + q.a.toNat
    sumR := L.sumR + q.r.toNat
    sumG := L.sumG + q.g.toNat
    sumB := L.sumB + q.b.toNat
    scr := fun j => if j = slot then p else L.scr j }

/-- The pixel `Emit` writes: each sum divided by `k`, truncating (R163). -/
def average (k : Nat) (L : Line) : Word :=
  pack
    { a := BitVec.ofNat 8 (L.sumA / k)
      r := BitVec.ofNat 8 (L.sumR / k)
      g := BitVec.ofNat 8 (L.sumG / k)
      b := BitVec.ofNat 8 (L.sumB / k) }

/-- Load pixel `i` of the line (R163): read it, add it, store it in slot `i mod k`. -/
def loadPixel (src : Nat → Nat) (k i : Nat) (L : Line) : Except Fault Line :=
  (memRead L.st (src i)).bind fun p => .ok (absorb (i % k) p L)

/-- `Emit(c)` (R163). -/
def emit (dst : Nat → Nat) (k c : Nat) (L : Line) : Except Fault Line :=
  (memWrite L.st (dst c) (average k L)).bind fun t => .ok { L with st := t }

/-- Iteration `i` of the fill phase (R163). -/
def fillStep (src dst : Nat → Nat) (k n i : Nat) (L : Line) : Except Fault Line :=
  (loadPixel src k i L).bind fun L' => if k / 2 ≤ i ∧ i - k / 2 < n then emit dst k (i - k / 2) L' else .ok L'

/-- Iteration `i` of the steady phase (R163): evict, load, emit. -/
def steadyStep (src dst : Nat → Nat) (k i : Nat) (L : Line) : Except Fault Line :=
  (loadPixel src k i (evict (i % k) L)).bind (emit dst k (i - k / 2))

/-- Iteration `i` of the drain phase (R163): evict only. -/
def drainStep (dst : Nat → Nat) (k n i : Nat) (L : Line) : Except Fault Line :=
  if i - k / 2 < n then emit dst k (i - k / 2) (evict (i % k) L) else .ok (evict (i % k) L)

/-- `BoxLine(rd, wr, k, n)` (R163): `src i` is the address `rd(i)` reads, `dst c` the address `wr(c, v)` writes. -/
def boxLine (src dst : Nat → Nat) (k n : Nat) (s : State) : Except Fault State :=
  (forRange (fillStep src dst k n) 0 k (startLine s)).bind fun L =>
    (forRange (steadyStep src dst k) k (n - k) L).bind fun L =>
      (forRange (drainStep dst k n) n k L).bind fun L => .ok L.st

/-! ## Passes and the box step (R166 to R169) -/

/-- `RowPass(src, dst, k, w, h)` (R167); `k = 0` is a copy pass (R166). -/
def rowPass (A B : Surface) (k w h : Nat) (s : State) : Except Fault State :=
  if k = 0 then copyRegion A B w h s
  else forRange (fun y => boxLine (fun i => A.addr i y) (fun c => B.addr c y) k w) 0 h s

/-- `ColPass(src, dst, k, w, h)` (R168); `k = 0` is a copy pass (R166). -/
def colPass (A B : Surface) (k w h : Nat) (s : State) : Except Fault State :=
  if k = 0 then copyRegion A B w h s
  else forRange (fun x => boxLine (fun i => A.addr x i) (fun c => B.addr x c) k h) 0 w s

/-- `BoxStep(src, dst, kx, ky, w, h)` (R169): X fully, then Y fully, in place on the result. -/
def boxStep (A B : Surface) (kx ky w h : Nat) (s : State) : Except Fault State :=
  (rowPass A B kx w h s).bind (colPass B B ky w h)

/-! ## Commands (R170 to R173) -/

/-- The state with the effective size and the kernels used latched (R36, R37), before any pixel is touched. -/
def latchKernels (s : State) (kx ky : Nat) : State := { latchSize s (sizeOne s) with lastk := packDim kx ky }

/-- `BOXH` (R170). -/
def execBoxh (s : State) : Result :=
  let w := (sizeOne s).1
  let h := (sizeOne s).2
  let kx := capK (sint32 s.kx) w
  finish (rowPass (surf s .s0) (surf s .s2) kx w h (latchKernels s kx 0))

/-- `BOXV` (R171). -/
def execBoxv (s : State) : Result :=
  let w := (sizeOne s).1
  let h := (sizeOne s).2
  let ky := capK (sint32 s.ky) h
  finish (colPass (surf s .s0) (surf s .s2) ky w h (latchKernels s 0 ky))

/-- `BOXHV` (R172). -/
def execBoxhv (s : State) : Result :=
  let w := (sizeOne s).1
  let h := (sizeOne s).2
  let kx := capK (sint32 s.kx) w
  let ky := capK (sint32 s.ky) h
  finish (boxStep (surf s .s0) (surf s .s2) kx ky w h (latchKernels s kx ky))

/-- Three box steps, the first from `A` to `B`, the others in place (R173). -/
def threeSteps (A B : Surface) (kx ky w h : Nat) (s : State) : Except Fault State :=
  (boxStep A B kx ky w h s).bind fun s => (boxStep B B kx ky w h s).bind (boxStep B B kx ky w h)

/-- `GBLUR` (R173): a verbatim copy if both kernels are at most 0, else three box steps with the capped kernels. -/
def execGblur (s : State) : Result :=
  let w := (sizeOne s).1
  let h := (sizeOne s).2
  let kx := kernelFromStd s.stdX
  let ky := kernelFromStd s.stdY
  if kx ≤ 0 ∧ ky ≤ 0 then finish (copyRegion (surf s .s0) (surf s .s2) w h (latchKernels s 0 0))
  else
    finish (threeSteps (surf s .s0) (surf s .s2) (capK kx w) (capK ky h) w h (latchKernels s (capK kx w) (capK ky h)))

end Sys2Proof.Machine
end

