-- ==== Sys2Proof/Machine/Cmx.lean ====
section
/-! DEFINITION. The colour-matrix unit: `CMX`, `LUM2A`, `S2L`, `L2S` (`41_color_transform.md` R130 to R136). -/

namespace Sys2Proof.Machine

/-- The binary32 number 255 (R130, R230). -/
def f255 : Flt := f32OfInt 255

/-- `MatRow(m0, …, m4, r, g, b, a)` (R130): one rounding per operation, summed left to right (D8). -/
def matRow (m0 m1 m2 m3 m4 : Flt) (r g b a : Nat) : Flt :=
  fadd (fadd (fadd (fadd (fmul m0 (f32OfInt r)) (fmul m1 (f32OfInt g))) (fmul m2 (f32OfInt b))) (fmul m3 (f32OfInt a)))
    (fmul m4 f255)

/-- `CMX` on one pixel (R131): the colour is repremultiplied by the new alpha (D19). -/
def cmxPixel (m : Fin 20 → Flt) (p : Word) : Word :=
  let q := unpack p
  let r := unpremul q.r q.a
  let g := unpremul q.g q.a
  let b := unpremul q.b q.a
  let a := q.a.toNat
  let r' := clampF (matRow (m 0) (m 1) (m 2) (m 3) (m 4) r g b a)
  let g' := clampF (matRow (m 5) (m 6) (m 7) (m 8) (m 9) r g b a)
  let b' := clampF (matRow (m 10) (m 11) (m 12) (m 13) (m 14) r g b a)
  let a' := clampF (matRow (m 15) (m 16) (m 17) (m 18) (m 19) r g b a)
  pack { a := a', r := premul r' a', g := premul g' a', b := premul b' a' }

/-- `CMX` (R131). -/
def execCmx (s : State) : Result := oneInput (cmxPixel (matrixOf s)) s

/-- The luminance constants, the binary32 numbers nearest 0.2126, 0.7152, 0.0722 (R133, D32). -/
def lumR : Flt := f32OfBits 0x3E59B3D0#32

/-- See `lumR`. -/
def lumG : Flt := f32OfBits 0x3F371759#32

/-- See `lumR`. -/
def lumB : Flt := f32OfBits 0x3D93DD98#32

/-- The luminance `L` of an unpremultiplied colour (R133). -/
def luminance (r g b : Nat) : Flt :=
  fadd (fadd (fmul lumR (f32OfInt r)) (fmul lumG (f32OfInt g))) (fmul lumB (f32OfInt b))

/-- `LUM2A` on one pixel (R133). -/
def lum2aPixel (p : Word) : Word :=
  let q := unpack p
  pack { a := clampF (luminance (unpremul q.r q.a) (unpremul q.g q.a) (unpremul q.b q.a)), r := 0, g := 0, b := 0 }

/-- `LUM2A` (R133). -/
def execLum2a (s : State) : Result := oneInput lum2aPixel s

/-- The entry of a gamma table for an unpremultiplied channel, the index saturated at 255 (R134, D18). -/
def gammaEntry (T : Vector Byte 256) (v : Nat) : Byte := T.get ⟨min v 255, by omega⟩

/-- `GammaPixel(T, p)` (R134): alpha is copied, and repremultiplies. -/
def gammaPixel (T : Vector Byte 256) (p : Word) : Word :=
  let q := unpack p
  pack
    { a := q.a
      r := premul (gammaEntry T (unpremul q.r q.a)) q.a
      g := premul (gammaEntry T (unpremul q.g q.a)) q.a
      b := premul (gammaEntry T (unpremul q.b q.a)) q.a }

/-- `S2L` (R135). -/
def execS2l (s : State) : Result := oneInput (gammaPixel s.params.lutS2L) s

/-- `L2S` (R136). -/
def execL2s (s : State) : Result := oneInput (gammaPixel s.params.lutL2S) s

end Sys2Proof.Machine
end

