-- ==== Sys2Proof/Machine/Composite.lean ====
section
/-! DEFINITION. The composite unit: the five Porter-Duff operators and the arithmetic compositor (`44_composite.md`
R220 to R230). -/

namespace Sys2Proof.Machine

/-- `Composite(g)` on a source and a backdrop pixel (R220), for an operator whose formula `e(s, d, sa, da)` serves all
four channels (R221). -/
def compPixel (e : Int → Int → Int → Int → Int) (p q : Word) : Word :=
  let S := unpack p
  let D := unpack q
  let sa : Int := S.a.toNat
  let da : Int := D.a.toNat
  pack
    { a := clampI (e sa da sa da)
      r := clampI (e S.r.toNat D.r.toNat sa da)
      g := clampI (e S.g.toNat D.g.toNat sa da)
      b := clampI (e S.b.toNat D.b.toNat sa da) }

/-- Over (R222). -/
def eOver (s d sa _da : Int) : Int := s + div255 (d * (255 - sa))

/-- In (R223). -/
def eIn (s _d _sa da : Int) : Int := div255 (s * da)

/-- Out (R224). -/
def eOut (s _d _sa da : Int) : Int := div255 (s * (255 - da))

/-- The colour formula of atop (R225). -/
def eAtop (s d sa da : Int) : Int := div255 (s * da) + div255 (d * (255 - sa))

/-- Xor (R226). -/
def eXor (s d sa da : Int) : Int := div255 (s * (255 - da)) + div255 (d * (255 - sa))

/-- Atop on a source and a backdrop pixel (R225): the backdrop's alpha is copied. -/
def atopPixel (p q : Word) : Word :=
  let S := unpack p
  let D := unpack q
  let sa : Int := S.a.toNat
  let da : Int := D.a.toNat
  pack
    { a := clampI da
      r := clampI (eAtop S.r.toNat D.r.toNat sa da)
      g := clampI (eAtop S.g.toNat D.g.toNat sa da)
      b := clampI (eAtop S.b.toNat D.b.toNat sa da) }

/-- `COMP.OVER` (R222). -/
def execCompOver (s : State) : Result := twoInput (compPixel eOver) s

/-- `COMP.IN` (R223). -/
def execCompIn (s : State) : Result := twoInput (compPixel eIn) s

/-- `COMP.OUT` (R224). -/
def execCompOut (s : State) : Result := twoInput (compPixel eOut) s

/-- `COMP.ATOP` (R225). -/
def execCompAtop (s : State) : Result := twoInput atopPixel s

/-- `COMP.XOR` (R226). -/
def execCompXor (s : State) : Result := twoInput (compPixel eXor) s

/-- The binary32 number 255 as the compositor's divisor and bias factor (R230). -/
def arith255 : Flt := f32OfInt 255

/-- One channel of `ARITH` (R230): `((k1*t + k2*s) + k3*d) + k4*255` with `t = (s*d)/255` (D25). -/
def arithChannel (k1 k2 k3 k4 : Flt) (s d : Byte) : Byte :=
  let fs := f32OfInt s.toNat
  let fd := f32OfInt d.toNat
  let t := fdiv (fmul fs fd) arith255
  clampF (fadd (fadd (fadd (fmul k1 t) (fmul k2 fs)) (fmul k3 fd)) (fmul k4 arith255))

/-- `ARITH` on a source and a backdrop pixel (R230): all four channels alike. -/
def arithPixel (k1 k2 k3 k4 : Flt) (p q : Word) : Word :=
  let S := unpack p
  let D := unpack q
  pack
    { a := arithChannel k1 k2 k3 k4 S.a D.a
      r := arithChannel k1 k2 k3 k4 S.r D.r
      g := arithChannel k1 k2 k3 k4 S.g D.g
      b := arithChannel k1 k2 k3 k4 S.b D.b }

/-- `ARITH` (R230): the coefficients are read once, before the loop. -/
def execArith (s : State) : Result :=
  twoInput (arithPixel (f32OfBits s.k1) (f32OfBits s.k2) (f32OfBits s.k3) (f32OfBits s.k4)) s

end Sys2Proof.Machine
end

