-- ==== Sys2Proof/Machine/Sdu.lean ====
section
/-! DEFINITION. The surface-descriptor unit: `NOP`, `COPY`, `SUBSURF` (`40_surface_codec.md` R112 to R115). -/

namespace Sys2Proof.Machine

/-- `NOP` (R112): no register, no memory. -/
def execNop (s : State) : Result := .next s

/-- `COPY` (R113): `CopyRegion(S0, S2, w, h)`. -/
def execCopy (s : State) : Result :=
  finish (copyRegion (surf s .s0) (surf s .s2) (sizeOne s).1 (sizeOne s).2 (latchSize s (sizeOne s)))

/-- The slot registers of the sub-surface of `r` at `(x, y)` of size `rw` by `rh` (R115): the offset is clipped on its
own, then the size against what is left (N6); the base is reduced modulo `2^32` (D17). -/
def subsurfRegs (r : SlotRegs) (x y rw rh : Int) : SlotRegs :=
  let P := r.surface
  let x' := clampi x 0 P.width
  let y' := clampi y 0 P.height
  let w' := clampi rw 0 (P.width - x')
  let h' := clampi rh 0 (P.height - y')
  { base := BitVec.ofInt 32 (P.base + y' * P.stride + x')
    dim := packDim w'.toNat h'.toNat
    stride := r.stride }

/-- Slot `n` replaced by a sub-surface of itself (R115). -/
def makeSub (s : State) (n : Slot) : State :=
  s.setSlot n (subsurfRegs (s.slot n) (sint32 s.subX) (sint32 s.subY) (sint32 s.subW) (sint32 s.subH))

/-- `SUBSURF.S0` (R115). -/
def execSubsurfS0 (s : State) : Result := .next (makeSub s .s0)

/-- `SUBSURF.S1` (R115). -/
def execSubsurfS1 (s : State) : Result := .next (makeSub s .s1)

/-- `SUBSURF.S2` (R115). -/
def execSubsurfS2 (s : State) : Result := .next (makeSub s .s2)

end Sys2Proof.Machine
end

