-- ==== Sys2Proof/Machine/Dispatch.lean ====
section
/-! DEFINITION. One arm per command: the meaning it has. -/

namespace Sys2Proof.Machine

/-- The meaning of a command (`30_encoding.md` R82, R83). -/
def exec (i : Instr) (s : State) : Host.Outcome State Fault Refusal :=
  match i with
  | .nop => Sys2Proof.Machine.execNop s
  | .copy => Sys2Proof.Machine.execCopy s
  | .subsurfS0 => Sys2Proof.Machine.execSubsurfS0 s
  | .subsurfS1 => Sys2Proof.Machine.execSubsurfS1 s
  | .subsurfS2 => Sys2Proof.Machine.execSubsurfS2 s
  | .cmx => Sys2Proof.Machine.execCmx s
  | .lum2a => Sys2Proof.Machine.execLum2a s
  | .s2l => Sys2Proof.Machine.execS2l s
  | .l2s => Sys2Proof.Machine.execL2s s
  | .boxh => Sys2Proof.Machine.execBoxh s
  | .boxv => Sys2Proof.Machine.execBoxv s
  | .boxhv => Sys2Proof.Machine.execBoxhv s
  | .gblur => Sys2Proof.Machine.execGblur s
  | .blendNormal => Sys2Proof.Machine.execBlendNormal s
  | .blendMultiply => Sys2Proof.Machine.execBlendMultiply s
  | .blendScreen => Sys2Proof.Machine.execBlendScreen s
  | .blendOverlay => Sys2Proof.Machine.execBlendOverlay s
  | .blendHardlight => Sys2Proof.Machine.execBlendHardlight s
  | .blendDarken => Sys2Proof.Machine.execBlendDarken s
  | .blendLighten => Sys2Proof.Machine.execBlendLighten s
  | .blendDodge => Sys2Proof.Machine.execBlendDodge s
  | .blendBurn => Sys2Proof.Machine.execBlendBurn s
  | .blendSoftlight => Sys2Proof.Machine.execBlendSoftlight s
  | .blendDifference => Sys2Proof.Machine.execBlendDifference s
  | .blendExclusion => Sys2Proof.Machine.execBlendExclusion s
  | .compOver => Sys2Proof.Machine.execCompOver s
  | .compIn => Sys2Proof.Machine.execCompIn s
  | .compOut => Sys2Proof.Machine.execCompOut s
  | .compAtop => Sys2Proof.Machine.execCompAtop s
  | .compXor => Sys2Proof.Machine.execCompXor s
  | .arith => Sys2Proof.Machine.execArith s

end Sys2Proof.Machine
end

