-- ==== Sys2Proof/Machine/HostPort.lean ====
section
/-! DEFINITION. The host's side: what each of its actions does (`10_state.md` R23, R24; `30_encoding.md` R82, R86;
`60_exceptions.md` R241; `70_reset_and_hazards.md` R260). A write of `CMD` is the only thing that makes the engine act
(`00_scope.md` R8). -/

namespace Sys2Proof.Machine

/-- A write of word `c` to `CMD` (R82): a legal word runs its command to completion, any other raises
`IllegalCommand`. -/
def runCommand (c : Word) (s : State) : Result :=
  match decode c with
  | .ok i => exec i s
  | .error _ => .next (raiseIllegal s c)

/-- `WR(i, v)` (R23, R25). -/
def hostWrite (i : RegIndex) (v : Word) (s : State) : Result :=
  match regOfIndex i with
  | none => .next s
  | some r =>
    match accessOf r with
    | .rw => .next (regStore s r v)
    | .ro => .next s
    | .wo => runCommand v s
    | .w1c => .next (writeStatus s v)

/-- The host gets a value: no register and no memory changes (R24). -/
def hostReply (s : State) (v : Word) : State := { s with replies := s.replies ++ [v] }

/-- One action of the host or the platform. -/
def hostEvent (e : HostEvent) (s : State) : Result :=
  match e with
  | .wr i v => hostWrite i v s
  | .rd i => .next (hostReply s (indexRead s i))
  | .poke a v => finish (memWrite s a v)
  | .peek a => finish ((memRead s a).bind fun v => .ok (hostReply s v))
  | .reset => .next (applyReset s)

/-- The host's next action (R8, R28, R73): taken off the list, then performed to completion. With none pending the
engine idles and holds its registers (R251; log 8). -/
def serveHost (s : State) : Result :=
  match s.pending with
  | [] => .next s
  | e :: rest => hostEvent e { s with pending := rest }

/-- The host's write of the command word whose bits are the low `nbits` bits of `w`, placed before everything else the
host has pending. -/
def placeCommand (s : State) (nbits w : Nat) : State :=
  { s with pending := .wr (regIndex .cmd) (BitVec.ofNat 32 (w % 2 ^ nbits)) :: s.pending }

end Sys2Proof.Machine
end

