-- ==== Sys2Proof/Machine/Step.lean ====
section
/-! DEFINITION. One step of the machine: the host's next action, a command being one action (`00_scope.md` R8, D2). -/

namespace Sys2Proof.Machine

/-- One step: `next`, `fault` or `refused`. -/
def step (s : State) : Host.Outcome State Fault Refusal := serveHost s

/-- `s` with the command word of `nbits` bits `w` as the host's next write to `CMD`: the PFE fetches no instruction
(R29, R75), a command is the data of a host write (log 7). -/
def State.withFetchWord (s : State) (nbits w : Nat) : State := placeCommand s nbits w

end Sys2Proof.Machine
end

