-- ==== Sys2Proof/Machine/Trig.lean ====
section
/-! DEFINITION. The cosine and the sine of an angle in rational degrees, between rational bounds as narrow as asked for
(`41_color_transform.md` R148: `q = degrees * pi / 180`, `c = cos q`, `n = sin q`). Host arithmetic: no rule of the
engine uses it. `Laws/Trig.lean` proves that the bounds hold. -/

namespace Sys2Proof.Machine

/-- A lower and an upper bound of a real number. -/
structure Bounds where
  lo : Rat
  hi : Rat
  deriving DecidableEq, Repr

/-- The bounds of the negated number. -/
def Bounds.neg (b : Bounds) : Bounds := { lo := -b.hi, hi := -b.lo }

/-- `term 0 - term 1 + term 2 - …`, `k` terms. -/
def altSum (term : Nat → Rat) : Nat → Rat
  | 0 => 0
  | k + 1 => altSum term k + (if k % 2 = 0 then term k else -term k)

/-- A sum of alternating falling terms lies between an even number of them and one more. -/
def altBounds (term : Nat → Rat) (k : Nat) : Bounds := { lo := altSum term (2 * k), hi := altSum term (2 * k + 1) }

/-- The terms of the arctangent of `x`. -/
def arctanTerm (x : Rat) (k : Nat) : Rat := x ^ (2 * k + 1) / (2 * k + 1 : Nat)

/-- The terms of the sine of `x`. -/
def sinTerm (x : Rat) (k : Nat) : Rat := x ^ (2 * k + 1) / (2 * k + 1).factorial

/-- The terms of the cosine of `x`. -/
def cosTerm (x : Rat) (k : Nat) : Rat := x ^ (2 * k) / (2 * k).factorial

/-- `pi`, by `pi / 4 = 4 arctan (1/5) - arctan (1/239)`. -/
def piBounds (k : Nat) : Bounds :=
  let a := altBounds (arctanTerm (1 / 5)) k
  let b := altBounds (arctanTerm (1 / 239)) k
  { lo := 16 * a.lo - 4 * b.hi, hi := 16 * a.hi - 4 * b.lo }

/-- How many pairs of terms are summed for bounds about `2^-p` apart. -/
def termPairs (p : Nat) : Nat := p / 4 + 2

/-- `r * pi / 180` for `0 ≤ r ≤ 45`, in units of `2^-p`, inside `0 .. 1`. -/
def radians (p : Nat) (r : Rat) : Bounds :=
  let b := piBounds (termPairs p)
  { lo := max 0 ((r * b.lo / 180 * 2 ^ p).floor / 2 ^ p), hi := min 1 ((r * b.hi / 180 * 2 ^ p).ceil / 2 ^ p) }

/-- The cosine and the sine of an angle. -/
structure Direction where
  cosine : Bounds
  sine : Bounds
  deriving DecidableEq, Repr

/-- The direction of `r` degrees, `0 ≤ r ≤ 45`: there the sine rises, the cosine falls, and the terms of both fall. -/
def octant (p : Nat) (r : Rat) : Direction :=
  let q := radians p r
  let k := termPairs p
  { cosine := { lo := (altBounds (cosTerm q.hi) k).lo, hi := (altBounds (cosTerm q.lo) k).hi }
    sine := { lo := (altBounds (sinTerm q.lo) k).lo, hi := (altBounds (sinTerm q.hi) k).hi } }

/-- The direction of `r` degrees, `0 ≤ r < 90`. -/
def quadrant (p : Nat) (r : Rat) : Direction :=
  if r ≤ 45 then octant p r
  else
    let t := octant p (90 - r)
    { cosine := t.sine, sine := t.cosine }

/-- The direction a quarter turn on. -/
def Direction.turn (t : Direction) : Direction := { cosine := t.sine.neg, sine := t.cosine }

/-- The direction of an angle in degrees. At a multiple of 90 the bounds meet. -/
def direction (p : Nat) (degrees : Rat) : Direction :=
  let turns := (degrees / 90).floor
  let t := quadrant p (degrees - 90 * turns)
  if turns % 4 = 0 then t
  else if turns % 4 = 1 then t.turn
  else if turns % 4 = 2 then t.turn.turn
  else t.turn.turn.turn

end Sys2Proof.Machine
end

