-- ==== Sys2Proof/Machine/Assembler.lean ====
section
/-! DEFINITION. The host's assembler (`30_encoding.md` R90, R91, R95; `41_color_transform.md` R140 to R148): statements,
as syntax trees, expand to host transactions. The presets are host arithmetic: each element is a real number, rounded
once to binary32 (R140; log 19). No rule of the engine depends on this file. -/

namespace Sys2Proof.Machine

/-- The binary32 bit pattern nearest a rational, ties to even (R90, R140). Both zeros are equally near 0, and the spec is
silent on which: DESIGN CHOICE, `+0` (log 25). -/
def f32OfRat (q : Rat) : Word :=
  bitsOfF32 (roundQuotient binary32 (decide (q.num < 0)) q.num.natAbs q.den 0)

/-- A 32-bit constant (R90): hexadecimal, decimal, or floating `f:<decimal>`. A decimal is held as the rational it
denotes, so `f:-0.0` is `f:0.0`: DESIGN CHOICE (log 25). -/
inductive Literal where
  | hex (n : Nat)
  | dec (n : Int)
  | float (q : Rat)
  deriving DecidableEq, Repr

/-- The value of a constant (R90): a negative decimal is two's complement. -/
def literalWord : Literal → Word
  | .hex n => BitVec.ofNat 32 n
  | .dec n => BitVec.ofInt 32 n
  | .float q => f32OfRat q

/-- A register name of R30, or a numeric index (R90). -/
inductive Target where
  | name (r : Reg)
  | index (i : RegIndex)
  deriving DecidableEq, Repr

/-- The index of a target (R90). -/
def targetIndex : Target → RegIndex
  | .name r => regIndex r
  | .index i => i

/-- A statement of the assembler (R90, R91, R95). -/
inductive Stmt where
  /-- `WR name, value` (R90). -/
  | wr (t : Target) (v : Literal)
  /-- `RD name` (R90). -/
  | rd (t : Target)
  /-- A mnemonic of R83 (R90). -/
  | command (i : Instr)
  /-- `SURF Sn, base, width, height, stride` (R91, `40_surface_codec.md` R116). -/
  | surf (n : Slot) (base : Literal) (width height : Nat) (stride : Literal)
  /-- `SUBSURF Sn, x, y, w, h` (R91). -/
  | subsurf (n : Slot) (x y w h : Literal)
  /-- `MATRIX v0, …, v19` (R91). -/
  | matrix (v : Vector Literal 20)
  /-- `KCOEF k1, k2, k3, k4` (R91). -/
  | kcoef (c1 c2 c3 c4 : Literal)
  /-- `KERNEL kx, ky` (R91). -/
  | kernel (x y : Literal)
  /-- `STDDEV sx, sy` (R91). -/
  | stddev (x y : Literal)
  /-- `CLRILL` (R91). -/
  | clrill
  /-- `OPACITY amount` (R95, R141). -/
  | opacity (amount : Rat)
  /-- `BRIGHTNESS amount` (R95, R142). -/
  | brightness (amount : Rat)
  /-- `INVERT amount` (R95, R143). -/
  | invert (amount : Rat)
  /-- `CONTRAST amount` (R95, R144). -/
  | contrast (amount : Rat)
  /-- `SATURATE amount` (R95, R145). -/
  | saturate (amount : Rat)
  /-- `GRAYSCALE amount` (R95, R146). -/
  | grayscale (amount : Rat)
  /-- `SEPIA amount` (R95, R147). -/
  | sepia (amount : Rat)
  /-- `HUEROTATE degrees` (R95, R148). -/
  | hueRotate (degrees : Rat)

/-! ## Preset matrices (R140 to R148) -/

/-- Twenty elements in the order of R42: three colour rows with no alpha or bias column, and the identity alpha row. -/
def colourRows (r0 r1 r2 g0 g1 g2 b0 b1 b2 : Rat) : Vector Rat 20 :=
  #v[r0, r1, r2, 0, 0, g0, g1, g2, 0, 0, b0, b1, b2, 0, 0, 0, 0, 0, 1, 0]

/-- `I` with the three colour diagonals `diag` and the three colour biases `bias` (R140). -/
def diagonalRows (diag bias : Rat) : Vector Rat 20 :=
  #v[diag, 0, 0, 0, bias, 0, diag, 0, 0, bias, 0, 0, diag, 0, bias, 0, 0, 0, 1, 0]

/-- `I` (R140). -/
def identityMatrix : Vector Rat 20 := diagonalRows 1 0

/-- R141. -/
def opacityMatrix (amount : Rat) : Vector Rat 20 := identityMatrix.set 18 amount

/-- R142. -/
def brightnessMatrix (amount : Rat) : Vector Rat 20 := diagonalRows amount 0

/-- R143. -/
def invertMatrix (amount : Rat) : Vector Rat 20 := diagonalRows (1 - 2 * amount) amount

/-- R144. -/
def contrastMatrix (amount : Rat) : Vector Rat 20 := diagonalRows amount ((1 - amount) / 2)

/-- R145. -/
def saturateMatrix (s : Rat) : Vector Rat 20 :=
  colourRows
    (0.213 + 0.787 * s) (0.715 - 0.715 * s) (0.072 - 0.072 * s)
    (0.213 - 0.213 * s) (0.715 + 0.285 * s) (0.072 - 0.072 * s)
    (0.213 - 0.213 * s) (0.715 - 0.715 * s) (0.072 + 0.928 * s)

/-- R146. -/
def grayscaleMatrix (amount : Rat) : Vector Rat 20 :=
  let t := 1 - amount
  colourRows
    (0.2126 + 0.7874 * t) (0.7152 - 0.7152 * t) (0.0722 - 0.0722 * t)
    (0.2126 - 0.2126 * t) (0.7152 + 0.2848 * t) (0.0722 - 0.0722 * t)
    (0.2126 - 0.2126 * t) (0.7152 - 0.7152 * t) (0.0722 + 0.9278 * t)

/-- R147. -/
def sepiaMatrix (amount : Rat) : Vector Rat 20 :=
  let t := 1 - amount
  colourRows
    (0.393 + 0.607 * t) (0.769 - 0.769 * t) (0.189 - 0.189 * t)
    (0.349 - 0.349 * t) (0.686 + 0.314 * t) (0.168 - 0.168 * t)
    (0.272 - 0.272 * t) (0.534 - 0.534 * t) (0.131 + 0.869 * t)

/-- R148's formulas, of `c = cos q` and `n = sin q`. -/
def hueRotateMatrix (c n : Rat) : Vector Rat 20 :=
  colourRows
    (0.213 + 0.787 * c - 0.213 * n) (0.715 - 0.715 * c - 0.715 * n) (0.072 - 0.072 * c + 0.928 * n)
    (0.213 - 0.213 * c + 0.143 * n) (0.715 + 0.285 * c + 0.140 * n) (0.072 - 0.072 * c - 0.283 * n)
    (0.213 - 0.213 * c - 0.787 * n) (0.715 - 0.715 * c + 0.715 * n) (0.072 + 0.928 * c + 0.072 * n)

/-- The elements of a matrix rounded to binary32 (R95, R140). -/
def roundedWords (v : Vector Rat 20) : Vector Word 20 := v.map f32OfRat

/-- R148's matrix rounded to binary32, if bounds about `2^-p` apart settle it: an element is affine in `c` and `n`, so
it lies between its values at the four corners of the bounds, and rounds as they do when they round alike. -/
def hueRotateWords? (p : Nat) (degrees : Rat) : Option (Vector Word 20) :=
  let t := direction p degrees
  let corner := fun c n => roundedWords (hueRotateMatrix c n)
  let v := corner t.cosine.lo t.sine.lo
  if v = corner t.cosine.lo t.sine.hi ∧ v = corner t.cosine.hi t.sine.lo ∧ v = corner t.cosine.hi t.sine.hi then some v
  else none

/-- The least precision `p`, `2p`, `4p`, … that settles R148's matrix. With no fuel left, the rounded lower corner. -/
def settleHueRotate (degrees : Rat) : (fuel p : Nat) → Vector Word 20
  | 0, p => roundedWords (hueRotateMatrix (direction p degrees).cosine.lo (direction p degrees).sine.lo)
  | fuel + 1, p =>
    match hueRotateWords? p degrees with
    | some v => v
    | none => settleHueRotate degrees fuel (2 * p)

/-- The twenty words of `HUEROTATE degrees` (R140, R148). The fuel suffices for every angle (log 19). -/
def hueRotateWords (degrees : Rat) : Vector Word 20 := settleHueRotate degrees (12 + degrees.den.log2) 40

/-! ## Expansion -/

/-- A write of a named register. -/
def writeTo (r : Reg) (v : Word) : HostEvent := .wr (regIndex r) v

/-- The write of `CMD` that issues a command (R90). -/
def issue (i : Instr) : HostEvent := writeTo .cmd (encode i)

/-- The `SUBSURF` command of a slot (R91). -/
def subsurfOf : Slot → Instr
  | .s0 => .subsurfS0
  | .s1 => .subsurfS1
  | .s2 => .subsurfS2

/-- `WR M0, v0` to `WR M19, v19`, in order (R91). -/
def matrixWrites (v : Vector Word 20) : List HostEvent :=
  (List.finRange 20).map fun n => writeTo (.mat n) (v.get n)

/-- A preset: the twenty writes of its matrix, then `CMX` (R95, R140). -/
def presetEvents (v : Vector Word 20) : List HostEvent := matrixWrites v ++ [issue .cmx]

/-- The transactions a statement stands for, in order (R90, R91, R95). -/
def expand : Stmt → List HostEvent
  | .wr t v => [.wr (targetIndex t) (literalWord v)]
  | .rd t => [.rd (targetIndex t)]
  | .command i => [issue i]
  | .surf n base width height stride =>
    [writeTo (.base n) (literalWord base), writeTo (.dim n) (BitVec.ofNat 32 (height <<< 16 ||| width)),
      writeTo (.stride n) (literalWord stride)]
  | .subsurf n x y w h =>
    [writeTo .subX (literalWord x), writeTo .subY (literalWord y), writeTo .subW (literalWord w),
      writeTo .subH (literalWord h), issue (subsurfOf n)]
  | .matrix v => matrixWrites (v.map literalWord)
  | .kcoef c1 c2 c3 c4 =>
    [writeTo .k1 (literalWord c1), writeTo .k2 (literalWord c2), writeTo .k3 (literalWord c3),
      writeTo .k4 (literalWord c4)]
  | .kernel x y => [writeTo .kx (literalWord x), writeTo .ky (literalWord y)]
  | .stddev x y => [writeTo .stdX (literalWord x), writeTo .stdY (literalWord y)]
  | .clrill => [writeTo .status 0x00000002#32]
  | .opacity amount => presetEvents (roundedWords (opacityMatrix amount))
  | .brightness amount => presetEvents (roundedWords (brightnessMatrix amount))
  | .invert amount => presetEvents (roundedWords (invertMatrix amount))
  | .contrast amount => presetEvents (roundedWords (contrastMatrix amount))
  | .saturate amount => presetEvents (roundedWords (saturateMatrix amount))
  | .grayscale amount => presetEvents (roundedWords (grayscaleMatrix amount))
  | .sepia amount => presetEvents (roundedWords (sepiaMatrix amount))
  | .hueRotate degrees => presetEvents (hueRotateWords degrees)

/-- A program: its statements' transactions in order (R86, R90). -/
def assemble (p : List Stmt) : List HostEvent := p.flatMap expand

end Sys2Proof.Machine
end

