-- ==== Sys2Proof/Machine/Reference.lean ====
section
/-! DEFINITION. The spec's own descriptions of results, for claims to compare the machine with; no step calls them: the
value of a float and "nearest, ties to even" (`00_scope.md` R12, G5), the closed form of a box pass (`42_box_blur.md`
R164), and which registers a command reads (`10_state.md` R43). -/

namespace Sys2Proof.Machine

/-! ## Floats -/

/-- The number a finite datum denotes; 0 for the others, of which no claim speaks. -/
def fltValue : Flt → ℚ
  | .fin neg sig ex => (signedInt neg sig : ℚ) * 2 ^ ex
  | _ => 0

/-- Neither a NaN nor an infinity. -/
def fltFinite : Flt → Bool
  | .fin _ _ _ => true
  | _ => false

/-- A finite datum of the format. -/
def fltDatum (F : FloatFormat) : Flt → Prop
  | .fin _ sig ex => sig < 2 ^ F.prec ∧ F.emin ≤ ex ∧ ex ≤ F.emax
  | _ => False

/-- The significand is even. -/
def fltEven : Flt → Prop
  | .fin _ sig _ => sig % 2 = 0
  | _ => False

/-- `r` is a datum of the format, none is nearer to `x`, and if another one is as near, `r`'s significand is even. -/
def NearestEven (F : FloatFormat) (x : ℚ) (r : Flt) : Prop :=
  fltDatum F r ∧
    ∀ d, fltDatum F d →
      |x - fltValue r| ≤ |x - fltValue d| ∧
        (|x - fltValue r| = |x - fltValue d| → fltValue d ≠ fltValue r → fltEven r)

/-- `r` is `x` rounded once to binary32: the nearest datum, and beyond half a unit above the greatest the infinity of
`x`'s sign (IEEE 754, G5). -/
def RoundsOnce (x : ℚ) (r : Flt) : Prop :=
  (|x| < 2 ^ 128 - 2 ^ 103 → NearestEven binary32 x r) ∧ (2 ^ 128 - 2 ^ 103 ≤ x → r = .inf false) ∧
    (x ≤ -(2 ^ 128 - 2 ^ 103) → r = .inf true)

/-! ## Box filter -/

/-- The four channels of a pixel, each as a function to numbers (R63). -/
def channels : List (Pixel → Nat) := [fun q => q.a.toNat, fun q => q.r.toNat, fun q => q.g.toNat, fun q => q.b.toNat]

/-- The sum of one channel over the window of output index `c` (R164): `lo = max(0, c + half - k + 1)` to
`hi = min(n-1, c + half)`. -/
def windowSum (k n : Nat) (line : Nat → Word) (ch : Pixel → Nat) (c : Nat) : Nat :=
  ∑ j ∈ Finset.Icc (c + k / 2 + 1 - k) (min (n - 1) (c + k / 2)), ch (unpack (line j))

/-- Output pixel `c` of a filtered line (R164): the divisor is `k`, also at the ends of the line (C1, C2). -/
def boxAt (k n : Nat) (line : Nat → Word) (c : Nat) : Word :=
  pack
    { a := BitVec.ofNat 8 (windowSum k n line (fun q => q.a.toNat) c / k)
      r := BitVec.ofNat 8 (windowSum k n line (fun q => q.r.toNat) c / k)
      g := BitVec.ofNat 8 (windowSum k n line (fun q => q.g.toNat) c / k)
      b := BitVec.ofNat 8 (windowSum k n line (fun q => q.b.toNat) c / k) }

/-- A line after a pass with kernel `k`; `k = 0` is a copy pass (R166). -/
def lineImage (k n : Nat) (line : Nat → Word) : Nat → Word := if k = 0 then line else boxAt k n line

/-- An image after a row pass (R167). -/
def rowImage (k w : Nat) (img : Nat → Nat → Word) (x y : Nat) : Word := lineImage k w (fun j => img j y) x

/-- An image after a column pass (R168). -/
def colImage (k h : Nat) (img : Nat → Nat → Word) (x y : Nat) : Word := lineImage k h (fun j => img x j) y

/-- An image after a box step (R169). -/
def stepImage (kx ky w h : Nat) (img : Nat → Nat → Word) : Nat → Nat → Word := colImage ky h (rowImage kx w img)

/-! ## Registers a command uses (R43) -/

/-- The slots a command uses (R43). -/
def usedSlots : Instr → List Slot
  | .nop | .subsurfS0 | .subsurfS1 | .subsurfS2 => []
  | .copy | .cmx | .lum2a | .s2l | .l2s | .boxh | .boxv | .boxhv | .gblur => [.s0, .s2]
  | .blendNormal | .blendMultiply | .blendScreen | .blendOverlay | .blendHardlight | .blendDarken | .blendLighten
  | .blendDodge | .blendBurn | .blendSoftlight | .blendDifference | .blendExclusion
  | .compOver | .compIn | .compOut | .compAtop | .compXor | .arith => [.s0, .s1, .s2]

/-- A data command is every legal command but `NOP` and `SUBSURF` (R36). -/
def isDataCommand (i : Instr) : Bool := !(usedSlots i).isEmpty

/-- The slot a `SUBSURF` command replaces. -/
def subsurfSlot : Instr → Option Slot
  | .subsurfS0 => some .s0
  | .subsurfS1 => some .s1
  | .subsurfS2 => some .s2
  | _ => none

/-- The registers a command reads (R43). -/
def readsReg (i : Instr) : Reg → Bool
  | .base n | .dim n | .stride n => (usedSlots i).contains n || subsurfSlot i == some n
  | .subX | .subY | .subW | .subH => (subsurfSlot i).isSome
  | .kx => i == .boxh || i == .boxhv
  | .ky => i == .boxv || i == .boxhv
  | .stdX | .stdY => i == .gblur
  | .k1 | .k2 | .k3 | .k4 => i == .arith
  | .mat _ => i == .cmx
  | .id | .cmd | .status | .illcmd | .effdim | .lastk => false

/-- The registers a command writes (R43). -/
def writesReg (i : Instr) : Reg → Bool
  | .effdim => isDataCommand i
  | .lastk => i == .boxh || i == .boxv || i == .boxhv || i == .gblur
  | .base n | .dim n => subsurfSlot i == some n
  | _ => false

/-- The effective size of a data command (R110): the least width and height of the slots it uses; none for the others. -/
def effSize (i : Instr) (s : State) : Nat × Nat :=
  match usedSlots i with
  | [] => (0, 0)
  | n :: rest => overlap (surf s n) (rest.map (surf s))

/-- The kernels a blur command filters with, after all caps (R37, R170 to R173). -/
def usedKernels (i : Instr) (s : State) : Nat × Nat :=
  match i with
  | .boxh => (capK (sint32 s.kx) (effSize i s).1, 0)
  | .boxv => (0, capK (sint32 s.ky) (effSize i s).2)
  | .boxhv => (capK (sint32 s.kx) (effSize i s).1, capK (sint32 s.ky) (effSize i s).2)
  | .gblur => (capK (kernelFromStd s.stdX) (effSize i s).1, capK (kernelFromStd s.stdY) (effSize i s).2)
  | _ => (0, 0)

/-- `LASTK` after a command (R37): the kernels of a blur command, unchanged for the others. -/
def lastkAfter (i : Instr) (s : State) : Word :=
  if writesReg i .lastk then packDim (usedKernels i s).1 (usedKernels i s).2 else s.lastk

end Sys2Proof.Machine
end

