-- ==== Sys2Proof/Safety.lean ====
section
/-! DEFINITION. What counts as a safe run: the contract a caller owes (`20_memory.md` R68, `70_reset_and_hazards.md`
R265), what a command that keeps it delivers, and the invariant every step keeps. -/

namespace Sys2Proof.Machine

/-- Every element of the `w` by `h` region of a surface lies in pixel memory (R68). -/
abbrev Surface.inside (elems w h : Nat) (S : Surface) : Prop := ∀ x < w, ∀ y < h, S.addr x y < elems

/-- Two surfaces alias exactly (R72). -/
abbrev aliasExactly (A B : Surface) : Prop := A.base = B.base ∧ A.stride = B.stride

/-- Two surfaces share no element of their `w` by `h` regions. -/
abbrev shareNothing (w h : Nat) (A B : Surface) : Prop :=
  ∀ x < w, ∀ y < h, ∀ x' < w, ∀ y' < h, A.addr x y ≠ B.addr x' y'

/-- The memory half of the contract of a command (R68): every pixel it touches exists. -/
abbrev InMemory (i : Instr) (s : State) : Prop :=
  ∀ n ∈ usedSlots i, (surf s n).inside s.params.memElems (effSize i s).1 (effSize i s).2

/-- The contract a caller owes for a command (R265), asked of the effective region only: every pixel exists, the
output's rows do not run into each other, and each input aliases the output exactly or shares nothing with it. -/
abbrev CallerContract (i : Instr) (s : State) : Prop :=
  InMemory i s ∧ (effSize i s).1 ≤ (surf s .s2).stride ∧
    ∀ n ∈ usedSlots i,
      aliasExactly (surf s n) (surf s .s2) ∨ shareNothing (effSize i s).1 (effSize i s).2 (surf s n) (surf s .s2)

/-- The region of `B` holds the image, and every byte of memory outside that region is unchanged. Byte address `a`
belongs to element `a / 4` (R65). -/
def Delivers (s t : State) (B : Surface) (w h : Nat) (img : Nat → Nat → Word) : Prop :=
  (∀ x < w, ∀ y < h, t.elem (B.addr x y) = img x y) ∧
    ∀ a, (∀ x < w, ∀ y < h, a / 4 ≠ B.addr x y) → t.byteAt a = s.byteAt a

/-- The command answers a next state: `EFFDIM` and `LASTK` as R36 and R37 say, the image in the output's region, every
other register and every other byte of memory unchanged. -/
def CompletesWith (i : Instr) (s : State) (img : Nat → Nat → Word) : Prop :=
  ∃ t, exec i s = .next t ∧
    t = { s with effdim := packDim (effSize i s).1 (effSize i s).2, lastk := lastkAfter i s, mem := t.mem } ∧
    Delivers s t (surf s .s2) (effSize i s).1 (effSize i s).2 img

/-- The input image of a slot, as memory holds it before the command. -/
def inputImage (s : State) (n : Slot) (x y : Nat) : Word := s.elem ((surf s n).addr x y)

/-- Under its contract a one-input command writes `f` of each input pixel. -/
def OneInputGives (i : Instr) (f : State → Word → Word) : Prop :=
  ∀ s, CallerContract i s → CompletesWith i s fun x y => f s (inputImage s .s0 x y)

/-- Under its contract a two-input command writes `f` of each source and backdrop pixel, in states that meet `pre`. -/
def TwoInputGives (i : Instr) (pre : State → Prop) (f : State → Word → Word → Word) : Prop :=
  ∀ s, pre s → CallerContract i s →
    CompletesWith i s fun x y => f s (inputImage s .s0 x y) (inputImage s .s1 x y)

/-- The invariant of the machine: memory in its canonical form and inside its bounds, `STATUS` with no bit but `ILL`
(R34), `LASTK` fields at most 512 (R37), gamma tables non-decreasing (R137). -/
abbrev Inv (s : State) : Prop :=
  s.mem.wf = true ∧ s.mem.within s.params.memElems = true ∧ s.status &&& ~~~illMask = 0 ∧
    dimWidth s.lastk ≤ 512 ∧ dimHeight s.lastk ≤ 512 ∧ s.params.wellFormed

/-- The next `n` actions of the host complete: no step stops with a fault or a refusal. -/
def RunsSafely (n : Nat) (s : State) : Prop := ∃ t, Sys2Proof.core.run n s = .next t

end Sys2Proof.Machine
end

