-- ==== Sys2Proof/Certificates/Slice0/Obligations.lean ====
section
/-! DEFINITION. The statements for the provers. A docstring names the rule of `spec/` a statement formalises. -/

open Sys2Proof Sys2Proof.Machine

/-! ## Encoding -/

/-- `30_encoding.md` R82, R83: a word decodes to a command exactly when it is that command's word, all 32 bits compared. -/
def Obligations.DecodeReadsExactlyTheEncodings : Prop :=
  ∀ (w : Word) (i : Instr), decode w = .ok i ↔ w = encode i

/-- R85: the words that name no command are those the prose of R85 lists, by `RSV`, `OPC` and `SUB`; the reason says
which part is wrong. -/
def Obligations.RejectedWordsAreThoseOfTheProse : Prop :=
  ∀ w : Word,
    ((∃ e, decode w = .error e) ↔ wordLegal w = false) ∧
    (decode w = .error .reservedBits ↔ rsvOk w = false) ∧
    (decode w = .error .unknownOpcode ↔ rsvOk w = true ∧ opcOk w = false) ∧
    (decode w = .error .badSelector ↔ rsvOk w = true ∧ opcOk w = true ∧ subOk w = false)

/-- R83: the 31 legal words of the table decode to their commands; and three illegal words of `95_test_vectors.md` 2.10 are
refused. The reason a refusal names is the model's choice (log 22). -/
def Obligations.SpecWordsDecodeAsTheTableSays : Prop :=
  (∀ r ∈ ([
    (0x00000000, .nop), (0x00000001, .copy), (0x00000002, .subsurfS0), (0x00000102, .subsurfS1),
    (0x00000202, .subsurfS2), (0x00000010, .cmx), (0x00000011, .lum2a), (0x00000012, .s2l), (0x00000013, .l2s),
    (0x00000020, .boxh), (0x00000021, .boxv), (0x00000022, .boxhv), (0x00000023, .gblur),
    (0x00000030, .blendNormal), (0x00000130, .blendMultiply), (0x00000230, .blendScreen),
    (0x00000330, .blendOverlay), (0x00000430, .blendHardlight), (0x00000530, .blendDarken),
    (0x00000630, .blendLighten), (0x00000730, .blendDodge), (0x00000830, .blendBurn), (0x00000930, .blendSoftlight),
    (0x00000A30, .blendDifference), (0x00000B30, .blendExclusion), (0x00000031, .compOver), (0x00000131, .compIn),
    (0x00000231, .compOut), (0x00000331, .compAtop), (0x00000431, .compXor), (0x00000032, .arith)
      ] : List (Word × Instr)), decode r.1 = .ok r.2) ∧
  decode 0x00000C30#32 = .error .badSelector ∧ decode 0x00000003#32 = .error .unknownOpcode ∧
  decode 0x00001000#32 = .error .reservedBits

/-! ## Host transactions -/

/-- R82: a write of `CMD` runs the command the word names, at the state with that action taken off the host's list, or
raises `IllegalCommand`; with nothing pending the step changes nothing (R251). -/
def Obligations.StepRunsTheDecodedCommand : Prop :=
  ∀ (s : State) (c : Word) (rest : List HostEvent),
    (s.pending = .wr 0x01 c :: rest →
      (∀ i, decode c = .ok i → step s = exec i { s with pending := rest }) ∧
      (∀ e, decode c = .error e → step s = .next (raiseIllegal { s with pending := rest } c))) ∧
    (s.pending = [] → step s = .next s)

/-- `60_exceptions.md` R241: the whole effect of an illegal word. -/
def Obligations.IllegalWordRecordsItselfAndNothingElse : Prop :=
  ∀ (s : State) (c : Word) (rest : List HostEvent), s.pending = .wr 0x01 c :: rest → wordLegal c = false →
    ∃ t, step s = .next t ∧ illSet t.status = true ∧
      t = { s with
            illcmd := if illSet s.status then s.illcmd else c
            status := s.status ||| 0x00000002#32
            pending := rest }

/-- `10_state.md` R35 and R242: the first offender is kept while `ILL` is 1, the next one is recorded after the host
has cleared `ILL`, clearing `ILL` does not clear `ILLCMD`, and reset clears it. -/
def Obligations.IllcmdKeepsTheFirstOffender : Prop :=
  (State.reset.illcmd = 0 ∧ regOfIndex 0x03 = some .illcmd ∧ accessOf .illcmd = .ro) ∧
    ∀ (s : State) (c : Word) (rest : List HostEvent), s.pending = .wr 0x01 c :: rest → wordLegal c = false →
      ∃ t, step s = .next t ∧ illSet t.status = true ∧
        (illSet s.status = false → t.illcmd = c) ∧ (illSet s.status = true → t.illcmd = s.illcmd) ∧
        ∀ v : Word, v.getLsbD 1 = true → ∃ u, hostWrite 0x02 v t = .next u ∧ illSet u.status = false ∧
          u.illcmd = t.illcmd

/-- R34: a host reads only `ILL` from `STATUS`; a step changes `ILL` only by an illegal command (to 1), by a host write
with bit 1 set, or by reset (to 0); and every legal command executes the same whatever `STATUS` holds, and leaves it. -/
def Obligations.IllIsStickyAndIgnoredByCommands : Prop :=
  (regOfIndex 0x02 = some .status ∧ State.reset.status = 0) ∧
    (∀ s : State, regRead s .status &&& ~~~0x00000002#32 = 0 ∧ (regRead s .status = 0 ↔ illSet s.status = false)) ∧
    (∀ s t : State, step s = .next t → illSet s.status ≠ illSet t.status →
      (illSet t.status = true ∧ ∃ c rest, s.pending = .wr 0x01 c :: rest ∧ wordLegal c = false) ∨
      (illSet t.status = false ∧
        ((∃ v rest, s.pending = .wr 0x02 v :: rest ∧ v.getLsbD 1 = true) ∨ ∃ rest, s.pending = .reset :: rest))) ∧
    ∀ (i : Instr) (s : State) (v : Word),
      (∀ t, exec i s = .next t → t.status = s.status ∧ exec i { s with status := v } = .next { t with status := v }) ∧
      ∀ f, exec i s = .fault f → exec i { s with status := v } = .fault f

/-- R23: what a host write does, by the class that R30 gives the index: `RW` for every register from `0x08` on, `RO` for
`0x00` and `0x03` to `0x05`. -/
def Obligations.HostWriteByAccessClass : Prop :=
  ∀ (s : State) (i : RegIndex) (v : Word) (rest : List HostEvent), s.pending = .wr i v :: rest →
    let u : State := { s with pending := rest }
    (∀ r, regOfIndex i = some r → 0x08 ≤ i.toNat →
      ∃ t, step s = .next t ∧ regRead t r = v ∧ (∀ r', r' ≠ r → regRead t r' = regRead s r') ∧
        t.mem = s.mem ∧ t.pending = rest ∧ t.replies = s.replies ∧ t.params = s.params ∧
        t.status = s.status) ∧
    (i = 0x01 → step s = runCommand v u) ∧
    (i = 0x02 → step s = .next { u with status := if v.getLsbD 1 then s.status &&& ~~~0x00000002#32 else s.status }) ∧
    (i.toNat ∈ [0x00, 0x03, 0x04, 0x05] → step s = .next u) ∧
    (regOfIndex i = none → step s = .next u)

/-- R24: a host read returns the value of a register of class `RW`, `RO` or of `STATUS`, and 0 for `CMD` and for a
reserved index; nothing else changes. -/
def Obligations.HostReadReturnsTheValueAndChangesNothing : Prop :=
  ∀ (s : State) (i : RegIndex) (rest : List HostEvent), s.pending = .rd i :: rest →
    ∃ v, step s = .next { s with pending := rest, replies := s.replies ++ [v] } ∧
      (regOfIndex i = none → v = 0) ∧ (regOfIndex i = some .cmd → v = 0) ∧
      (regOfIndex i = some .status → v = s.status &&& 0x00000002#32) ∧
      ∀ r, regOfIndex i = some r → r ≠ .cmd → v = regRead s r

/-- R25: the reserved indices are `0x06`, `0x07`, `0x0B`, `0x0F`, `0x13` and `0x34` to `0x3F`; they read as zero and
ignore writes. -/
def Obligations.ReservedIndicesReadZeroAndIgnoreWrites : Prop :=
  ∀ i : RegIndex,
    (regOfIndex i = none ↔ i.toNat ∈ [0x06, 0x07, 0x0B, 0x0F, 0x13] ∨ 0x34 ≤ i.toNat) ∧
    (regOfIndex i = none → ∀ (s : State) (v : Word), indexRead s i = 0 ∧ hostWrite i v s = .next s)

/-- R30: the register map. An index names at most one register and each register has one index; the table's indices, as
numbers, name its registers, of its classes; and each index reads the piece of state that the table says it holds. -/
def Obligations.RegisterMapIsOneToOne : Prop :=
  (∀ (i : RegIndex) (r : Reg), regOfIndex i = some r ↔ i = regIndex r) ∧
  (∀ e ∈ ([
      (0x00, .id, .ro), (0x01, .cmd, .wo), (0x02, .status, .w1c), (0x03, .illcmd, .ro), (0x04, .effdim, .ro),
      (0x05, .lastk, .ro), (0x08, .base .s0, .rw), (0x09, .dim .s0, .rw), (0x0A, .stride .s0, .rw),
      (0x0C, .base .s1, .rw), (0x0D, .dim .s1, .rw), (0x0E, .stride .s1, .rw), (0x10, .base .s2, .rw),
      (0x11, .dim .s2, .rw), (0x12, .stride .s2, .rw), (0x14, .subX, .rw), (0x15, .subY, .rw), (0x16, .subW, .rw),
      (0x17, .subH, .rw), (0x18, .kx, .rw), (0x19, .ky, .rw), (0x1A, .stdX, .rw), (0x1B, .stdY, .rw),
      (0x1C, .k1, .rw), (0x1D, .k2, .rw), (0x1E, .k3, .rw), (0x1F, .k4, .rw)
      ] : List (RegIndex × Reg × Access)), regOfIndex e.1 = some e.2.1 ∧ accessOf e.2.1 = e.2.2) ∧
  (∀ n : Fin 20, regOfIndex (BitVec.ofNat 6 (0x20 + n.val)) = some (.mat n) ∧ accessOf (.mat n) = .rw) ∧
  ∀ s : State,
    ([
      0x00, 0x01, 0x02, 0x03, 0x04, 0x05, 0x08, 0x09, 0x0A, 0x0C, 0x0D, 0x0E, 0x10, 0x11, 0x12, 0x14, 0x15, 0x16,
      0x17, 0x18, 0x19, 0x1A, 0x1B, 0x1C, 0x1D, 0x1E, 0x1F
      ] : List RegIndex).map (indexRead s) = [
      0x50464501#32, 0, s.status &&& 0x00000002#32, s.illcmd, s.effdim, s.lastk, s.s0.base, s.s0.dim, s.s0.stride,
      s.s1.base, s.s1.dim, s.s1.stride, s.s2.base, s.s2.dim, s.s2.stride, s.subX, s.subY, s.subW, s.subH, s.kx,
      s.ky, s.stdX, s.stdY, s.k1, s.k2, s.k3, s.k4
      ] ∧
    ∀ n : Fin 20, indexRead s (BitVec.ofNat 6 (0x20 + n.val)) = s.m.get n

/-- R22: two different indices never name the same storage. -/
def Obligations.DifferentIndicesNeverAlias : Prop :=
  ∀ (s t : State) (i j : RegIndex) (v : Word), i ≠ 0x01 → i ≠ j → hostWrite i v s = .next t →
    indexRead t j = indexRead s j

/-! ## Reset -/

/-- R54, R260: after reset `ID` reads its constant and every other index reads 0; so it is after the platform's reset of
any machine. -/
def Obligations.ResetSetsEveryRegister : Prop :=
  (∀ i : RegIndex, indexRead State.reset i = if i = 0x00 then 0x50464501#32 else 0) ∧
    ∀ (s : State) (i : RegIndex), indexRead (applyReset s) i = if i = 0x00 then 0x50464501#32 else 0

/-- R260, R262: the platform's reset gives every index its reset value and does not touch pixel memory. -/
def Obligations.ResetEventKeepsPixelMemory : Prop :=
  ∀ (s : State) (rest : List HostEvent), s.pending = .reset :: rest →
    ∃ t, step s = .next t ∧ (∀ i : RegIndex, indexRead t i = indexRead State.reset i) ∧ t.mem = s.mem ∧
      (∀ e, t.elem e = s.elem e) ∧ t.params = s.params ∧ t.pending = rest

/-! ## Memory -/

/-- `20_memory.md` R61, an element that exists: a read returns it and changes nothing (it answers no state), a write
sets it and no other. -/
def Obligations.MemReadReturnsWhatMemWriteStored : Prop :=
  ∀ (s : State) (e : Nat) (v : Word), e < s.params.memElems →
    memRead s e = .ok (s.elem e) ∧
    ∃ t, memWrite s e v = .ok t ∧ t = { s with mem := t.mem } ∧ t.elem e = v ∧ memRead t e = .ok v ∧
      ∀ e', e' ≠ e → t.elem e' = s.elem e'

/-- R60, R68, D30: the host's own accesses to pixel memory are the element accesses of R61, and any access outside it
faults. An element at a time, at byte addresses `4e` to `4e+3`, and the fault for the host: the model's choice (log 3,
log 9, log 10). -/
def Obligations.HostReachesPixelMemoryByElements : Prop :=
  ∀ (s : State) (e : Nat) (v : Word),
    (e < s.params.memElems →
      (∃ t, hostEvent (.poke e v) s = .next t ∧ t = { s with mem := t.mem } ∧ t.elem e = v ∧
        ∀ a, a / 4 ≠ e → t.byteAt a = s.byteAt a) ∧
      hostEvent (.peek e) s = .next { s with replies := s.replies ++ [s.elem e] }) ∧
    (s.params.memElems ≤ e →
      memRead s e = .error (.outsidePixelMemory e) ∧ memWrite s e v = .error (.outsidePixelMemory e) ∧
      hostEvent (.poke e v) s = .fault (.outsidePixelMemory e) ∧
      hostEvent (.peek e) s = .fault (.outsidePixelMemory e))

/-- R62: an address is `base + y*stride + x`, with no wrap, and stays below `2^49` for every surface a slot can hold. -/
def Obligations.AddressesDoNotWrap : Prop :=
  ∀ (s : State) (n : Slot) (x y : Nat),
    (surf s n).addr x y = (s.slot n).base.toNat + y * (s.slot n).stride.toNat + x ∧
    (x ≤ 65534 → y ≤ 65534 → (surf s n).addr x y < 2 ^ 49)

/-- R64: byte order inside an element is not observable by any command. Two machines that hold the same elements under
different byte orders still do after any command that completes. -/
def Obligations.ByteOrderIsNotObservable : Prop :=
  ∀ (i : Instr) (s s' t : State),
    s' = { s with mem := s'.mem, params := { s.params with byteOrder := s'.params.byteOrder } } →
    (∀ e < s.params.memElems, s'.elem e = s.elem e) → exec i s = .next t →
    ∃ t', exec i s' = .next t' ∧ (∀ e < s.params.memElems, t'.elem e = t.elem e) ∧
      t' = { t with mem := t'.mem, params := { t.params with byteOrder := s'.params.byteOrder } }

/-! ## Pixels and arithmetic -/

/-- R63: the channels' bit positions, and `Pack` undoes `Unpack`. -/
def Obligations.PixelLayoutIsArgb : Prop :=
  ∀ (p : Word) (q : Pixel),
    p.toNat = (unpack p).a.toNat * 2 ^ 24 + (unpack p).r.toNat * 2 ^ 16 + (unpack p).g.toNat * 2 ^ 8 +
      (unpack p).b.toNat ∧
    pack (unpack p) = p ∧ unpack (pack q) = q

/-- `40_surface_codec.md` R101, R102, R105: the two codec formulas, their ranges, and where they undo each other. -/
def Obligations.PremultiplyAndUnpremultiply : Prop :=
  ∀ c a : Byte,
    (premul c a).toNat = c.toNat * (a.toNat + 1) / 256 ∧ premul c 255 = c ∧ premul c 0 = 0 ∧
    (a = 0 → unpremul c a = 0) ∧ (a ≠ 0 → unpremul c a = 255 * c.toNat / a.toNat) ∧ unpremul c a ≤ 65025 ∧
    (a ≠ 0 → (unpremul c a ≤ 255 ↔ c.toNat ≤ a.toNat)) ∧ unpremul (premul c 255) 255 = c.toNat

/-- R103, R104: the two clamps to a channel; `ClampF` takes the integer part, with no rounding to nearest. -/
def Obligations.ClampsTruncateIntoAByte : Prop :=
  clampF .nan = 0 ∧ clampF (.inf true) = 0 ∧ clampF (.inf false) = 255 ∧
    (∀ v : Flt, fltFinite v = true →
      (fltValue v < 0 → clampF v = 0) ∧ (255 < fltValue v → clampF v = 255) ∧
      (0 ≤ fltValue v → fltValue v ≤ 255 → ((clampF v).toNat : ℤ) = ⌊fltValue v⌋)) ∧
    ∀ v : Int, ((clampI v).toNat : ℤ) = min (max v 0) 255

/-- `00_scope.md` R12, D8, G5: `f32_of_bits` reads the IEEE 754 fields; `fadd`, `fmul`, `fdiv` of finite operands round
the exact result once, to nearest with ties to even, and to an infinity from `2^128 - 2^103` on; what they give on a NaN
and on infinities; integers up to 65025 convert exactly. -/
def Obligations.FloatOperationsRoundToNearestEven : Prop :=
  (∀ w : Word,
    let e : Nat := w.toNat / 2 ^ 23 % 2 ^ 8
    let f : Nat := w.toNat % 2 ^ 23
    let sign : ℚ := if w.toNat < 2 ^ 31 then 1 else -1
    let v := f32OfBits w
    (e = 255 → f = 0 → v = .inf (decide (2 ^ 31 ≤ w.toNat))) ∧ (e = 255 → f ≠ 0 → v = .nan) ∧
    (e = 0 → fltDatum binary32 v ∧ fltValue v = sign * f * 2 ^ (-149 : ℤ)) ∧
    (0 < e → e < 255 → fltDatum binary32 v ∧ fltValue v = sign * (2 ^ 23 + f) * 2 ^ ((e : ℤ) - 150))) ∧
  (∀ a b : Flt, fltFinite a = true → fltFinite b = true →
    RoundsOnce (fltValue a + fltValue b) (fadd a b) ∧ RoundsOnce (fltValue a * fltValue b) (fmul a b) ∧
    (fltValue b ≠ 0 → RoundsOnce (fltValue a / fltValue b) (fdiv a b)) ∧
    (fltValue b = 0 → fltValue a = 0 → fdiv a b = .nan)) ∧
  (∀ a : Flt, ∀ op ∈ [fadd, fmul, fdiv], op a .nan = .nan ∧ op .nan a = .nan) ∧
  (∀ n n' : Bool,
    fadd (.inf n) (.inf n') = (if n = n' then .inf n else .nan) ∧ fmul (.inf n) (.inf n') = .inf (n != n') ∧
    fdiv (.inf n) (.inf n') = .nan) ∧
  (∀ (n : Bool) (a : Flt), fltFinite a = true →
    fadd (.inf n) a = .inf n ∧ fadd a (.inf n) = .inf n ∧ fltValue (fdiv a (.inf n)) = 0 ∧
    fltFinite (fdiv a (.inf n)) = true ∧
    (fltValue a = 0 → fmul (.inf n) a = .nan ∧ fmul a (.inf n) = .nan) ∧
    (0 < fltValue a → fmul (.inf n) a = .inf n ∧ fmul a (.inf n) = .inf n ∧ fdiv (.inf n) a = .inf n) ∧
    (fltValue a < 0 → fmul (.inf n) a = .inf !n ∧ fmul a (.inf n) = .inf !n ∧ fdiv (.inf n) a = .inf !n)) ∧
  ∀ n : Nat, n ≤ 65025 → fltDatum binary32 (f32OfInt n) ∧ fltValue (f32OfInt n) = n

/-- `42_box_blur.md` R161: the kernel size of a standard deviation: 0 for a NaN, saturation for the infinities, else the
floor of one binary64 product with the constant and one binary64 sum with one half. The constant is the binary64 number
nearest the decimal literal (U9: taken as printed, log 15). -/
def Obligations.KernelSizeOfAStandardDeviation : Prop :=
  NearestEven binary64 (18799712059732503 / 10 ^ 16) (.fin false 0x1E145CAFF13A88 (-52)) ∧
  ∀ w : Word,
    (f32OfBits w = .nan → kernelFromStd w = 0) ∧
    (f32OfBits w = .inf false → kernelFromStd w = 2 ^ 31 - 1) ∧
    (f32OfBits w = .inf true → kernelFromStd w = -(2 ^ 31)) ∧
    (fltFinite (f32OfBits w) = true →
      ∃ p v : Flt,
        NearestEven binary64 (fltValue (f32OfBits w) * (0x1E145CAFF13A88 / 2 ^ 52)) p ∧
        NearestEven binary64 (fltValue p + 1 / 2) v ∧
        kernelFromStd w = min (max ⌊fltValue v⌋ (-(2 ^ 31))) (2 ^ 31 - 1))

/-- R162: the caps of a kernel, and that a non-zero result fits the scratch window and the line. -/
def Obligations.KernelCaps : Prop :=
  ∀ (k : Int) (extent : Nat),
    (k ≤ 0 → capK k extent = 0) ∧ (0 < k → (capK k extent : ℤ) = min (min k 512) extent) ∧
    (capK k extent ≠ 0 → 1 ≤ capK k extent ∧ capK k extent ≤ 512 ∧ capK k extent ≤ extent)

/-- `43_blend.md` R190: `div255` is its formula with floor shifts, is monotone, and is exact on the multiples of 255 that
products of channels reach. -/
def Obligations.Div255IsMonotoneAndExactOnMultiples : Prop :=
  (∀ x : Int, div255 x = ⌊((x + ⌊(x : ℚ) / 256⌋ + 128 : ℤ) : ℚ) / 256⌋) ∧
    (∀ x y : Int, x ≤ y → div255 x ≤ div255 y) ∧ ∀ n : Nat, n ≤ 765 → div255 (255 * n) = n

/-- R191: the alpha of every blend mode is a byte before the clamp. -/
def Obligations.BlendAlphaIsAlreadyAByte : Prop :=
  ∀ sa da : Byte,
    blendAlpha sa.toNat da.toNat = sa.toNat + da.toNat - div255 (sa.toNat * da.toNat) ∧
    0 ≤ blendAlpha sa.toNat da.toNat ∧ blendAlpha sa.toNat da.toNat ≤ 255 ∧
    blendAlpha 255 da.toNat = 255 ∧ blendAlpha sa.toNat 255 = 255 ∧
    blendAlpha 0 da.toNat = da.toNat ∧ blendAlpha sa.toNat 0 = sa.toNat

/-! ## The surface-descriptor unit -/

/-- `40_surface_codec.md` R112: `NOP` reads and writes nothing. -/
def Obligations.NopChangesNothing : Prop := encode .nop = 0x00000000#32 ∧ ∀ s : State, exec .nop s = .next s

/-- R113, R114: `COPY` moves the overlapped region unchanged. -/
def Obligations.CopyMovesTheRegion : Prop :=
  encode .copy = 0x00000001#32 ∧ OneInputGives .copy fun _ p => p

/-- R115: `SUBSURF.Sn` clips the slot to a sub-surface of itself, and changes nothing else. -/
def Obligations.SubsurfClipsTheSlot : Prop :=
  (encode (subsurfOf .s0) = 0x00000002#32 ∧ encode (subsurfOf .s1) = 0x00000102#32 ∧
    encode (subsurfOf .s2) = 0x00000202#32) ∧
  ∀ (s : State) (n : Slot),
    let P := surf s n
    let x : Int := min (max s.subX.toInt 0) P.width
    let y : Int := min (max s.subY.toInt 0) P.height
    let w : Int := min (max s.subW.toInt 0) (P.width - x)
    let h : Int := min (max s.subH.toInt 0) (P.height - y)
    ∃ r : SlotRegs, exec (subsurfOf n) s = .next (s.setSlot n r) ∧
      (r.base.toNat : ℤ) = (P.base + y * P.stride + x) % 2 ^ 32 ∧
      (dimWidth r.dim : ℤ) = w ∧ (dimHeight r.dim : ℤ) = h ∧ r.stride = (s.slot n).stride

/-- R115: the sub-surface is a view of its parent: where its base does not leave 32 bits, each of its pixels is the
parent's pixel at the clipped offset, inside the parent's bounds. -/
def Obligations.SubsurfIsAViewOfItsParent : Prop :=
  ∀ (s t : State) (n : Slot) (x y : Nat), exec (subsurfOf n) s = .next t →
    x < (surf t n).width → y < (surf t n).height →
    let x0 := (min (max s.subX.toInt 0) (surf s n).width).toNat
    let y0 := (min (max s.subY.toInt 0) (surf s n).height).toNat
    (surf s n).addr x0 y0 < 2 ^ 32 →
    (surf t n).addr x y = (surf s n).addr (x0 + x) (y0 + y) ∧
      x0 + x < (surf s n).width ∧ y0 + y < (surf s n).height

/-! ## The colour-matrix unit -/

/-- `41_color_transform.md` R130, R131: `CMX` applies the matrix to every pixel. -/
def Obligations.CmxTransformsEveryPixel : Prop :=
  encode .cmx = 0x00000010#32 ∧ OneInputGives .cmx fun s p =>
    let q := unpack p
    let r := unpremul q.r q.a
    let g := unpremul q.g q.a
    let b := unpremul q.b q.a
    let row := fun n0 n1 n2 n3 n4 : Fin 20 =>
      clampF (fadd (fadd (fadd (fadd
        (fmul (f32OfBits (s.m.get n0)) (f32OfInt r))
        (fmul (f32OfBits (s.m.get n1)) (f32OfInt g)))
        (fmul (f32OfBits (s.m.get n2)) (f32OfInt b)))
        (fmul (f32OfBits (s.m.get n3)) (f32OfInt q.a.toNat)))
        (fmul (f32OfBits (s.m.get n4)) (f32OfInt 255)))
    let a' := row 15 16 17 18 19
    pack
      { a := a'
        r := premul (row 0 1 2 3 4) a'
        g := premul (row 5 6 7 8 9) a'
        b := premul (row 10 11 12 13 14) a' }

/-- R149: with the identity matrix `CMX` gives the unpremultiplied-then-repremultiplied input. -/
def Obligations.CmxWithIdentityRepremultiplies : Prop :=
  ∀ s : State, CallerContract .cmx s →
    (∀ n : Fin 20, s.m.get n = if n.val ∈ [0, 6, 12, 18] then 0x3F800000#32 else 0) →
    CompletesWith .cmx s fun x y =>
      let q := unpack (inputImage s .s0 x y)
      let again := fun c : Byte => premul (BitVec.ofNat 8 (min (unpremul c q.a) 255)) q.a
      pack { a := q.a, r := again q.r, g := again q.g, b := again q.b }

/-- R133: `LUM2A` puts the luminance of the unpremultiplied colour into alpha and zeroes the colour. -/
def Obligations.Lum2aPutsLuminanceInAlpha : Prop :=
  encode .lum2a = 0x00000011#32 ∧ OneInputGives .lum2a fun _ p =>
    let q := unpack p
    pack
      { a := clampF (fadd (fadd
          (fmul (f32OfBits 0x3E59B3D0#32) (f32OfInt (unpremul q.r q.a)))
          (fmul (f32OfBits 0x3F371759#32) (f32OfInt (unpremul q.g q.a))))
          (fmul (f32OfBits 0x3D93DD98#32) (f32OfInt (unpremul q.b q.a))))
        r := 0
        g := 0
        b := 0 }

/-- R134, R135, R136: the gamma commands use their own table, saturate its index, and keep alpha. -/
def Obligations.GammaCommandsUseTheirTables : Prop :=
  let gamma := fun (T : Vector Byte 256) (p : Word) =>
    let q := unpack p
    let look := fun c : Byte => premul (T.get (Fin.ofNat 256 (min (unpremul c q.a) 255))) q.a
    pack { a := q.a, r := look q.r, g := look q.g, b := look q.b }
  (encode .s2l = 0x00000012#32 ∧ encode .l2s = 0x00000013#32) ∧
  OneInputGives .s2l (fun s p => gamma s.params.lutS2L p) ∧ OneInputGives .l2s (fun s p => gamma s.params.lutL2S p)

/-! ## The box-blur unit -/

/-- `42_box_blur.md` R163, R164, R165: the line routine gives the closed form of the ORIGINAL line, also when it writes
the elements it reads. -/
def Obligations.BoxLineGivesTheClosedForm : Prop :=
  ∀ (s : State) (src dst : Nat → Nat) (k n : Nat), 1 ≤ k → k ≤ n → k ≤ 512 →
    (∀ j < n, src j < s.params.memElems ∧ dst j < s.params.memElems) →
    (∀ j < n, ∀ c < n, dst j = dst c → j = c) →
    ((∀ j < n, src j = dst j) ∨ ∀ j < n, ∀ c < n, src j ≠ dst c) →
    ∃ t, boxLine src dst k n s = .ok t ∧ t = { s with mem := t.mem } ∧
      (∀ c < n, t.elem (dst c) = boxAt k n (fun j => s.elem (src j)) c) ∧
      ∀ a, (∀ c < n, a / 4 ≠ dst c) → t.byteAt a = s.byteAt a

/-- R170: `BOXH` is one row pass with the capped `KX`. -/
def Obligations.BoxhFiltersEveryRow : Prop :=
  ∀ s : State, CallerContract .boxh s →
    CompletesWith .boxh s
      (rowImage (capK s.kx.toInt (effSize .boxh s).1) (effSize .boxh s).1 (inputImage s .s0))

/-- R171: `BOXV` is one column pass with the capped `KY`. -/
def Obligations.BoxvFiltersEveryColumn : Prop :=
  ∀ s : State, CallerContract .boxv s →
    CompletesWith .boxv s
      (colImage (capK s.ky.toInt (effSize .boxv s).2) (effSize .boxv s).2 (inputImage s .s0))

/-- R169, R172: `BOXHV` is a row pass, then a column pass on its result. -/
def Obligations.BoxhvFiltersRowsThenColumns : Prop :=
  ∀ s : State, CallerContract .boxhv s →
    let w := (effSize .boxhv s).1
    let h := (effSize .boxhv s).2
    CompletesWith .boxhv s (stepImage (capK s.kx.toInt w) (capK s.ky.toInt h) w h (inputImage s .s0))

/-- R173: `GBLUR` is three box steps with the kernels of the two standard deviations. -/
def Obligations.GblurIsThreeBoxSteps : Prop :=
  ∀ s : State, CallerContract .gblur s →
    let w := (effSize .gblur s).1
    let h := (effSize .gblur s).2
    let stepOf := stepImage (capK (kernelFromStd s.stdX) w) (capK (kernelFromStd s.stdY) h) w h
    CompletesWith .gblur s (stepOf (stepOf (stepOf (inputImage s .s0))))

/-- R174: `GBLUR` with both standard deviations zero is a verbatim copy of the overlapped region, whatever the surfaces
share; only `LASTK` tells it from `COPY`. -/
def Obligations.GblurOfZeroDeviationsIsCopy : Prop :=
  ∀ s t : State, s.stdX = 0 → s.stdY = 0 → exec .copy s = .next t → exec .gblur s = .next { t with lastk := 0 }

/-- R176: a pass never gains intensity: the total of a channel over the filtered line is at most its total over the
line. -/
def Obligations.BoxPassNeverGainsIntensity : Prop :=
  ∀ (k n : Nat) (line : Nat → Word), 1 ≤ k → ∀ ch ∈ channels,
    ∑ c ∈ Finset.range n, ch (unpack (boxAt k n line c)) ≤ ∑ j ∈ Finset.range n, ch (unpack (line j))

/-- R163, R164, R175: every quotient fits a byte; `k = 1` is the identity; and a pixel whose whole window lies in the
line keeps the value of a constant line. -/
def Obligations.WindowInsideAConstantLineIsFixed : Prop :=
  ∀ (k n : Nat) (line : Nat → Word) (c : Nat), 1 ≤ k → c < n →
    (∀ ch ∈ channels, windowSum k n line ch c / k ≤ 255) ∧ boxAt 1 n line c = line c ∧
    (k ≤ c + k / 2 + 1 → c + k / 2 < n → (∀ j < n, line j = line c) → boxAt k n line c = line c)

/-! ## The blend unit -/

/-- `43_blend.md` R192, R195, R196, R197: normal, multiply and screen. -/
def Obligations.BlendModesTheSourceGives : Prop :=
  (encode .blendNormal = 0x00000030#32 ∧ encode .blendMultiply = 0x00000130#32 ∧
    encode .blendScreen = 0x00000230#32) ∧
  TwoInputGives .blendNormal (fun _ => True) (fun _ => blendPixel fun s d sa _ => s + div255 (d * (255 - sa))) ∧
  TwoInputGives .blendMultiply (fun _ => True)
    (fun _ => blendPixel fun s d sa da => div255 (s * d + s * (255 - da) + d * (255 - sa))) ∧
  TwoInputGives .blendScreen (fun _ => True) (fun _ => blendPixel fun s d _ _ => s + d - div255 (s * d))

/-- R192: a blended pixel, channel by channel. -/
def Obligations.BlendSkeletonChannelByChannel : Prop :=
  ∀ (f : ChannelFn) (p q : Word),
    let S := unpack p
    let D := unpack q
    let R := unpack (blendPixel f p q)
    let at8 := fun v : Int => min (max v 0) 255
    (R.a.toNat : ℤ) = S.a.toNat + D.a.toNat - div255 (S.a.toNat * D.a.toNat) ∧
    (R.r.toNat : ℤ) = at8 (f S.r.toNat D.r.toNat S.a.toNat D.a.toNat) ∧
    (R.g.toNat : ℤ) = at8 (f S.g.toNat D.g.toNat S.a.toNat D.a.toNat) ∧
    (R.b.toNat : ℤ) = at8 (f S.b.toNat D.b.toNat S.a.toNat D.a.toNat)

/-- R193, R198 to R203, R205, R206: the eight modes whose formula is the spec's default, in an instance that has the
defaults. -/
def Obligations.BlendModesUnderTheDefaults : Prop :=
  let dflt := fun s : State => s.params.blendFill = .defaults
  let U := fun s d sa da : Int => s * (255 - da) + d * (255 - sa)
  let low := fun s d sa da : Int => div255 (2 * s * d + U s d sa da)
  let high := fun s d sa da : Int => div255 (sa * da - 2 * (da - d) * (sa - s) + U s d sa da)
  TwoInputGives .blendOverlay dflt
    (fun _ => blendPixel fun s d sa da => if 2 * d ≤ da then low s d sa da else high s d sa da) ∧
  TwoInputGives .blendHardlight dflt
    (fun _ => blendPixel fun s d sa da => if 2 * s ≤ sa then low s d sa da else high s d sa da) ∧
  TwoInputGives .blendDarken dflt
    (fun _ => blendPixel fun s d sa da =>
      if s * da < d * sa then s + div255 (d * (255 - sa)) else d + div255 (s * (255 - da))) ∧
  TwoInputGives .blendLighten dflt
    (fun _ => blendPixel fun s d sa da =>
      if s * da > d * sa then s + div255 (d * (255 - sa)) else d + div255 (s * (255 - da))) ∧
  TwoInputGives .blendDodge dflt
    (fun _ => blendPixel fun s d sa da =>
      if d = 0 then div255 (s * (255 - da))
      else if s ≥ sa then div255 (sa * da + U s d sa da)
      else div255 (min (sa * da) (d * sa * sa / (sa - s)) + U s d sa da)) ∧
  TwoInputGives .blendBurn dflt
    (fun _ => blendPixel fun s d sa da =>
      if d ≥ da then div255 (sa * da + U s d sa da)
      else if s = 0 then div255 (d * (255 - sa))
      else div255 (sa * da - min (sa * da) ((da - d) * sa * sa / s) + U s d sa da)) ∧
  TwoInputGives .blendDifference dflt
    (fun _ => blendPixel fun s d sa da => s + d - 2 * div255 (min (s * da) (d * sa))) ∧
  TwoInputGives .blendExclusion dflt (fun _ => blendPixel fun s d _ _ => s + d - 2 * div255 (s * d))

/-- D22, R199, R204: the nine open modes use the instance's own functions, soft-light a free one under every filling,
and hard-light overlay's two expressions under its own condition. -/
def Obligations.BlendModesOfAnOpenParameter : Prop :=
  let own := fun s : State => s.params.blendFill = .custom
  TwoInputGives .blendSoftlight (fun _ => True) (fun _ => blendPixel Config.softlight) ∧
  TwoInputGives .blendOverlay own
    (fun _ => blendPixel fun s d sa da =>
      if 2 * d ≤ da then Config.overlayLow s d sa da else Config.overlayHigh s d sa da) ∧
  TwoInputGives .blendHardlight own
    (fun _ => blendPixel fun s d sa da =>
      if 2 * s ≤ sa then Config.overlayLow s d sa da else Config.overlayHigh s d sa da) ∧
  TwoInputGives .blendDarken own (fun _ => blendPixel Config.darken) ∧
  TwoInputGives .blendLighten own (fun _ => blendPixel Config.lighten) ∧
  TwoInputGives .blendDodge own (fun _ => blendPixel Config.dodge) ∧
  TwoInputGives .blendBurn own (fun _ => blendPixel Config.burn) ∧
  TwoInputGives .blendDifference own (fun _ => blendPixel Config.difference) ∧
  TwoInputGives .blendExclusion own (fun _ => blendPixel Config.exclusion)

/-- R207: under the three formulas the source gives and under every default, a transparent source pixel leaves the
backdrop pixel and a transparent backdrop pixel leaves the source pixel. -/
def Obligations.TransparentPixelsAreNeutralInBlends : Prop :=
  ∀ f ∈ [fnNormal, fnMultiply, fnScreen, fnOverlay .defaults, fnHardlight .defaults, fnDarken .defaults,
      fnLighten .defaults, fnDodge .defaults, fnBurn .defaults, fnDifference .defaults, fnExclusion .defaults],
    ∀ p : Word, blendPixel f 0 p = p ∧ blendPixel f p 0 = p

/-- R208, C6: `BLEND.NORMAL` and `COMP.OVER` agree on colour, and on alpha up to one, the blend's being the larger. -/
def Obligations.NormalAndOverAgreeButForOneAlphaStep : Prop :=
  ∀ p q : Word,
    let N := unpack (blendPixel fnNormal p q)
    let O := unpack (compPixel eOver p q)
    N.r = O.r ∧ N.g = O.g ∧ N.b = O.b ∧ O.a.toNat ≤ N.a.toNat ∧ N.a.toNat ≤ O.a.toNat + 1

/-! ## The composite unit -/

/-- `44_composite.md` R220 to R226: the five Porter-Duff operators; atop copies the backdrop's alpha. -/
def Obligations.PorterDuffOperators : Prop :=
  let four := fun (e : Int → Int → Int → Int → Int) (alpha : Int → Int → Int) (p q : Word) =>
    let S := unpack p
    let D := unpack q
    let ch := fun s d : Byte => clampI (e s.toNat d.toNat S.a.toNat D.a.toNat)
    pack { a := clampI (alpha S.a.toNat D.a.toNat), r := ch S.r D.r, g := ch S.g D.g, b := ch S.b D.b }
  let any := fun _ : State => True
  (encode .compOver = 0x00000031#32 ∧ encode .compIn = 0x00000131#32 ∧ encode .compOut = 0x00000231#32 ∧
    encode .compAtop = 0x00000331#32 ∧ encode .compXor = 0x00000431#32) ∧
  TwoInputGives .compOver any
    (fun _ => four (fun s d sa _ => s + div255 (d * (255 - sa))) fun sa da => sa + div255 (da * (255 - sa))) ∧
  TwoInputGives .compIn any (fun _ => four (fun s _ _ da => div255 (s * da)) fun sa da => div255 (sa * da)) ∧
  TwoInputGives .compOut any
    (fun _ => four (fun s _ _ da => div255 (s * (255 - da))) fun sa da => div255 (sa * (255 - da))) ∧
  TwoInputGives .compAtop any
    (fun _ => four (fun s d sa da => div255 (s * da) + div255 (d * (255 - sa))) fun _ da => da) ∧
  TwoInputGives .compXor any
    (fun _ => four (fun s d sa da => div255 (s * (255 - da)) + div255 (d * (255 - sa)))
      fun sa da => div255 (sa * (255 - da)) + div255 (da * (255 - sa)))

/-- R222 to R226, the corner cases: opaque and transparent pixels under the five operators. -/
def Obligations.PorterDuffCornerCases : Prop :=
  ∀ p q : Word,
    ((unpack p).a = 255 → compPixel eOver p q = p) ∧ compPixel eOver 0 q = q ∧
    ((unpack q).a = 0 → compPixel eIn p q = 0) ∧ ((unpack q).a = 255 → compPixel eIn p q = p) ∧
    ((unpack q).a = 255 → compPixel eOut p q = 0) ∧ ((unpack q).a = 0 → compPixel eOut p q = p) ∧
    (unpack (atopPixel p q)).a = (unpack q).a ∧
    ((unpack p).a = 255 → (unpack q).a = 255 → compPixel eXor p q = 0) ∧ compPixel eXor p 0 = p ∧
    compPixel eXor 0 q = q

/-- R230: `ARITH` evaluates the formula in binary32 on all four channels. -/
def Obligations.ArithEvaluatesItsFormula : Prop :=
  encode .arith = 0x00000032#32 ∧ TwoInputGives .arith (fun _ => True) fun t p q =>
    let ch := fun s d : Byte =>
      clampF (fadd (fadd (fadd
        (fmul (f32OfBits t.k1) (fdiv (fmul (f32OfInt s.toNat) (f32OfInt d.toNat)) (f32OfInt 255)))
        (fmul (f32OfBits t.k2) (f32OfInt s.toNat)))
        (fmul (f32OfBits t.k3) (f32OfInt d.toNat)))
        (fmul (f32OfBits t.k4) (f32OfInt 255)))
    let S := unpack p
    let D := unpack q
    pack { a := ch S.a D.a, r := ch S.r D.r, g := ch S.g D.g, b := ch S.b D.b }

/-- R230, the corner cases: the pass-through of the source and of the backdrop, and the constant results. -/
def Obligations.ArithPassThroughAndConstants : Prop :=
  ∀ s : State, CallerContract .arith s →
    let one : Word := 0x3F800000#32
    let K := fun a b c d : Word => s.k1 = a ∧ s.k2 = b ∧ s.k3 = c ∧ s.k4 = d
    (K 0 one 0 0 → CompletesWith .arith s (inputImage s .s0)) ∧
    (K 0 0 one 0 → CompletesWith .arith s (inputImage s .s1)) ∧
    (K 0 0 0 one → CompletesWith .arith s fun _ _ => 0xFFFFFFFF#32) ∧
    (K 0 0 0 0 → CompletesWith .arith s fun _ _ => 0) ∧
    (K 0 0xBF800000#32 0 0 → CompletesWith .arith s fun _ _ => 0)

/-! ## Every command -/

/-- `20_memory.md` R68, D30, `60_exceptions.md` R240: a command completes exactly when every pixel it touches exists; else it faults at an
address outside memory; and no command is refused. -/
def Obligations.CommandsCompleteExactlyInsideMemory : Prop :=
  ∀ (i : Instr) (s : State),
    (InMemory i s → ∃ t, exec i s = .next t) ∧
    (¬ InMemory i s → ∃ a, s.params.memElems ≤ a ∧ exec i s = .fault (.outsidePixelMemory a))

/-- `10_state.md` R27, R43: a command writes no register but those R43 lists, and what it writes to them and to memory depends
on no register but those R43 lists. -/
def Obligations.CommandsReadAndWriteOnlyTheListedRegisters : Prop :=
  ∀ (i : Instr) (s t : State), exec i s = .next t →
    (∀ r, writesReg i r = false → regRead t r = regRead s r) ∧
    t.status = s.status ∧ t.pending = s.pending ∧ t.replies = s.replies ∧ t.params = s.params ∧
    ∀ s' : State, s'.mem = s.mem → s'.params = s.params → (∀ r, readsReg i r = true → regRead s' r = regRead s r) →
      ∃ t', exec i s' = .next t' ∧ t'.mem = t.mem ∧ ∀ r, writesReg i r = true → regRead t' r = regRead t r

/-- R36, R37: `EFFDIM` and `LASTK` after every command; reset clears both, and the kernels never exceed 512. -/
def Obligations.EffdimAndLastkReportTheCommand : Prop :=
  (State.reset.effdim = 0 ∧ State.reset.lastk = 0) ∧
    ∀ (i : Instr) (s t : State), exec i s = .next t →
      (isDataCommand i = true →
        dimWidth t.effdim = (effSize i s).1 ∧ dimHeight t.effdim = (effSize i s).2 ∧
        ∀ n ∈ usedSlots i, (effSize i s).1 ≤ (surf s n).width ∧ (effSize i s).2 ≤ (surf s n).height) ∧
      (isDataCommand i = false → t.effdim = s.effdim) ∧
      (i ∈ [Instr.boxh, .boxv, .boxhv, .gblur] →
        dimWidth t.lastk = (usedKernels i s).1 ∧ dimHeight t.lastk = (usedKernels i s).2 ∧
        dimWidth t.lastk ≤ 512 ∧ dimHeight t.lastk ≤ 512) ∧
      (i ∉ [Instr.boxh, .boxv, .boxhv, .gblur] → t.lastk = s.lastk)

/-- R62, R113, R270: whatever its surfaces share, a command writes no byte outside the effective region of S2, and none
at all when that region is empty. -/
def Obligations.CommandsWriteOnlyTheOutputRegion : Prop :=
  ∀ (i : Instr) (s t : State), exec i s = .next t →
    (∀ a, (∀ x < (effSize i s).1, ∀ y < (effSize i s).2, a / 4 ≠ (surf s .s2).addr x y) → t.byteAt a = s.byteAt a) ∧
    ((effSize i s).1 = 0 ∨ (effSize i s).2 = 0 → t.mem = s.mem)

/-- The machine's invariant is kept by every step (R34, R37, R137; memory's canonical form is the model's own, log 6). -/
def Obligations.EveryStepKeepsTheInvariant : Prop :=
  ∀ s t : State, Inv s → step s = .next t → Inv t

/-- The state after reset meets the invariant. -/
def Obligations.ResetMeetsTheInvariant : Prop := Inv State.reset

/-- R21: no step changes a parameter of the instance. -/
def Obligations.NoStepChangesAParameter : Prop :=
  ∀ s t : State, step s = .next t → t.params = s.params

/-! ## The assembler -/

/-- `30_encoding.md` R91, `40_surface_codec.md` R116: after the three writes of `SURF` the slot is the surface given, and
`CLRILL` clears `ILL` alone. -/
def Obligations.SurfAndClrillStatements : Prop :=
  (∀ (s : State) (n : Slot) (base stride : Word) (width height : Nat), width ≤ 65535 → height ≤ 65535 →
    s.pending = expand (.surf n (.hex base.toNat) width height (.hex stride.toNat)) →
    ∃ t, Sys2Proof.core.run 3 s = .next t ∧ t.pending = [] ∧ t.mem = s.mem ∧
      surf t n = { base := base.toNat, width := width, height := height, stride := stride.toNat }) ∧
  ∀ s : State, s.pending = expand .clrill →
    step s = .next { s with status := s.status &&& ~~~0x00000002#32, pending := [] }
end

