-- ==== Sys2Proof/Laws/State.lean ====
section
/-! SUPPORT. One lemma per field per state update: no later proof unfolds a record update. -/

namespace Sys2Proof.Machine

/-! ## `State.setElem`: an element of pixel memory -/

@[simp] theorem State.setElem_status (s : State) (e : Nat) (v : Word) : (s.setElem e v).status = s.status := rfl

@[simp] theorem State.setElem_illcmd (s : State) (e : Nat) (v : Word) : (s.setElem e v).illcmd = s.illcmd := rfl

@[simp] theorem State.setElem_effdim (s : State) (e : Nat) (v : Word) : (s.setElem e v).effdim = s.effdim := rfl

@[simp] theorem State.setElem_lastk (s : State) (e : Nat) (v : Word) : (s.setElem e v).lastk = s.lastk := rfl

@[simp] theorem State.setElem_s0 (s : State) (e : Nat) (v : Word) : (s.setElem e v).s0 = s.s0 := rfl

@[simp] theorem State.setElem_s1 (s : State) (e : Nat) (v : Word) : (s.setElem e v).s1 = s.s1 := rfl

@[simp] theorem State.setElem_s2 (s : State) (e : Nat) (v : Word) : (s.setElem e v).s2 = s.s2 := rfl

@[simp] theorem State.setElem_subX (s : State) (e : Nat) (v : Word) : (s.setElem e v).subX = s.subX := rfl

@[simp] theorem State.setElem_subY (s : State) (e : Nat) (v : Word) : (s.setElem e v).subY = s.subY := rfl

@[simp] theorem State.setElem_subW (s : State) (e : Nat) (v : Word) : (s.setElem e v).subW = s.subW := rfl

@[simp] theorem State.setElem_subH (s : State) (e : Nat) (v : Word) : (s.setElem e v).subH = s.subH := rfl

@[simp] theorem State.setElem_kx (s : State) (e : Nat) (v : Word) : (s.setElem e v).kx = s.kx := rfl

@[simp] theorem State.setElem_ky (s : State) (e : Nat) (v : Word) : (s.setElem e v).ky = s.ky := rfl

@[simp] theorem State.setElem_stdX (s : State) (e : Nat) (v : Word) : (s.setElem e v).stdX = s.stdX := rfl

@[simp] theorem State.setElem_stdY (s : State) (e : Nat) (v : Word) : (s.setElem e v).stdY = s.stdY := rfl

@[simp] theorem State.setElem_k1 (s : State) (e : Nat) (v : Word) : (s.setElem e v).k1 = s.k1 := rfl

@[simp] theorem State.setElem_k2 (s : State) (e : Nat) (v : Word) : (s.setElem e v).k2 = s.k2 := rfl

@[simp] theorem State.setElem_k3 (s : State) (e : Nat) (v : Word) : (s.setElem e v).k3 = s.k3 := rfl

@[simp] theorem State.setElem_k4 (s : State) (e : Nat) (v : Word) : (s.setElem e v).k4 = s.k4 := rfl

@[simp] theorem State.setElem_m (s : State) (e : Nat) (v : Word) : (s.setElem e v).m = s.m := rfl

@[simp] theorem State.setElem_mem (s : State) (e : Nat) (v : Word) : (s.setElem e v).mem = s.mem.setElem s.params.byteOrder e v := rfl

@[simp] theorem State.setElem_pending (s : State) (e : Nat) (v : Word) : (s.setElem e v).pending = s.pending := rfl

@[simp] theorem State.setElem_replies (s : State) (e : Nat) (v : Word) : (s.setElem e v).replies = s.replies := rfl

@[simp] theorem State.setElem_params (s : State) (e : Nat) (v : Word) : (s.setElem e v).params = s.params := rfl

/-! ## `latchSize`: `EFFDIM` -/

@[simp] theorem latchSize_status (s : State) (d : Nat × Nat) : (latchSize s d).status = s.status := rfl

@[simp] theorem latchSize_illcmd (s : State) (d : Nat × Nat) : (latchSize s d).illcmd = s.illcmd := rfl

@[simp] theorem latchSize_effdim (s : State) (d : Nat × Nat) : (latchSize s d).effdim = packDim d.1 d.2 := rfl

@[simp] theorem latchSize_lastk (s : State) (d : Nat × Nat) : (latchSize s d).lastk = s.lastk := rfl

@[simp] theorem latchSize_s0 (s : State) (d : Nat × Nat) : (latchSize s d).s0 = s.s0 := rfl

@[simp] theorem latchSize_s1 (s : State) (d : Nat × Nat) : (latchSize s d).s1 = s.s1 := rfl

@[simp] theorem latchSize_s2 (s : State) (d : Nat × Nat) : (latchSize s d).s2 = s.s2 := rfl

@[simp] theorem latchSize_subX (s : State) (d : Nat × Nat) : (latchSize s d).subX = s.subX := rfl

@[simp] theorem latchSize_subY (s : State) (d : Nat × Nat) : (latchSize s d).subY = s.subY := rfl

@[simp] theorem latchSize_subW (s : State) (d : Nat × Nat) : (latchSize s d).subW = s.subW := rfl

@[simp] theorem latchSize_subH (s : State) (d : Nat × Nat) : (latchSize s d).subH = s.subH := rfl

@[simp] theorem latchSize_kx (s : State) (d : Nat × Nat) : (latchSize s d).kx = s.kx := rfl

@[simp] theorem latchSize_ky (s : State) (d : Nat × Nat) : (latchSize s d).ky = s.ky := rfl

@[simp] theorem latchSize_stdX (s : State) (d : Nat × Nat) : (latchSize s d).stdX = s.stdX := rfl

@[simp] theorem latchSize_stdY (s : State) (d : Nat × Nat) : (latchSize s d).stdY = s.stdY := rfl

@[simp] theorem latchSize_k1 (s : State) (d : Nat × Nat) : (latchSize s d).k1 = s.k1 := rfl

@[simp] theorem latchSize_k2 (s : State) (d : Nat × Nat) : (latchSize s d).k2 = s.k2 := rfl

@[simp] theorem latchSize_k3 (s : State) (d : Nat × Nat) : (latchSize s d).k3 = s.k3 := rfl

@[simp] theorem latchSize_k4 (s : State) (d : Nat × Nat) : (latchSize s d).k4 = s.k4 := rfl

@[simp] theorem latchSize_m (s : State) (d : Nat × Nat) : (latchSize s d).m = s.m := rfl

@[simp] theorem latchSize_mem (s : State) (d : Nat × Nat) : (latchSize s d).mem = s.mem := rfl

@[simp] theorem latchSize_pending (s : State) (d : Nat × Nat) : (latchSize s d).pending = s.pending := rfl

@[simp] theorem latchSize_replies (s : State) (d : Nat × Nat) : (latchSize s d).replies = s.replies := rfl

@[simp] theorem latchSize_params (s : State) (d : Nat × Nat) : (latchSize s d).params = s.params := rfl

/-! ## `latchKernels`: `EFFDIM` and `LASTK` -/

@[simp] theorem latchKernels_status (s : State) (a b : Nat) : (latchKernels s a b).status = s.status := rfl

@[simp] theorem latchKernels_illcmd (s : State) (a b : Nat) : (latchKernels s a b).illcmd = s.illcmd := rfl

@[simp] theorem latchKernels_effdim (s : State) (a b : Nat) : (latchKernels s a b).effdim = packDim (sizeOne s).1 (sizeOne s).2 := rfl

@[simp] theorem latchKernels_lastk (s : State) (a b : Nat) : (latchKernels s a b).lastk = packDim a b := rfl

@[simp] theorem latchKernels_s0 (s : State) (a b : Nat) : (latchKernels s a b).s0 = s.s0 := rfl

@[simp] theorem latchKernels_s1 (s : State) (a b : Nat) : (latchKernels s a b).s1 = s.s1 := rfl

@[simp] theorem latchKernels_s2 (s : State) (a b : Nat) : (latchKernels s a b).s2 = s.s2 := rfl

@[simp] theorem latchKernels_subX (s : State) (a b : Nat) : (latchKernels s a b).subX = s.subX := rfl

@[simp] theorem latchKernels_subY (s : State) (a b : Nat) : (latchKernels s a b).subY = s.subY := rfl

@[simp] theorem latchKernels_subW (s : State) (a b : Nat) : (latchKernels s a b).subW = s.subW := rfl

@[simp] theorem latchKernels_subH (s : State) (a b : Nat) : (latchKernels s a b).subH = s.subH := rfl

@[simp] theorem latchKernels_kx (s : State) (a b : Nat) : (latchKernels s a b).kx = s.kx := rfl

@[simp] theorem latchKernels_ky (s : State) (a b : Nat) : (latchKernels s a b).ky = s.ky := rfl

@[simp] theorem latchKernels_stdX (s : State) (a b : Nat) : (latchKernels s a b).stdX = s.stdX := rfl

@[simp] theorem latchKernels_stdY (s : State) (a b : Nat) : (latchKernels s a b).stdY = s.stdY := rfl

@[simp] theorem latchKernels_k1 (s : State) (a b : Nat) : (latchKernels s a b).k1 = s.k1 := rfl

@[simp] theorem latchKernels_k2 (s : State) (a b : Nat) : (latchKernels s a b).k2 = s.k2 := rfl

@[simp] theorem latchKernels_k3 (s : State) (a b : Nat) : (latchKernels s a b).k3 = s.k3 := rfl

@[simp] theorem latchKernels_k4 (s : State) (a b : Nat) : (latchKernels s a b).k4 = s.k4 := rfl

@[simp] theorem latchKernels_m (s : State) (a b : Nat) : (latchKernels s a b).m = s.m := rfl

@[simp] theorem latchKernels_mem (s : State) (a b : Nat) : (latchKernels s a b).mem = s.mem := rfl

@[simp] theorem latchKernels_pending (s : State) (a b : Nat) : (latchKernels s a b).pending = s.pending := rfl

@[simp] theorem latchKernels_replies (s : State) (a b : Nat) : (latchKernels s a b).replies = s.replies := rfl

@[simp] theorem latchKernels_params (s : State) (a b : Nat) : (latchKernels s a b).params = s.params := rfl

/-! ## `raiseIllegal`: taking the exception -/

@[simp] theorem raiseIllegal_status (s : State) (c : Word) : (raiseIllegal s c).status = statusRaise s.status := rfl

@[simp] theorem raiseIllegal_illcmd (s : State) (c : Word) : (raiseIllegal s c).illcmd = if illSet s.status then s.illcmd else c := rfl

@[simp] theorem raiseIllegal_effdim (s : State) (c : Word) : (raiseIllegal s c).effdim = s.effdim := rfl

@[simp] theorem raiseIllegal_lastk (s : State) (c : Word) : (raiseIllegal s c).lastk = s.lastk := rfl

@[simp] theorem raiseIllegal_s0 (s : State) (c : Word) : (raiseIllegal s c).s0 = s.s0 := rfl

@[simp] theorem raiseIllegal_s1 (s : State) (c : Word) : (raiseIllegal s c).s1 = s.s1 := rfl

@[simp] theorem raiseIllegal_s2 (s : State) (c : Word) : (raiseIllegal s c).s2 = s.s2 := rfl

@[simp] theorem raiseIllegal_subX (s : State) (c : Word) : (raiseIllegal s c).subX = s.subX := rfl

@[simp] theorem raiseIllegal_subY (s : State) (c : Word) : (raiseIllegal s c).subY = s.subY := rfl

@[simp] theorem raiseIllegal_subW (s : State) (c : Word) : (raiseIllegal s c).subW = s.subW := rfl

@[simp] theorem raiseIllegal_subH (s : State) (c : Word) : (raiseIllegal s c).subH = s.subH := rfl

@[simp] theorem raiseIllegal_kx (s : State) (c : Word) : (raiseIllegal s c).kx = s.kx := rfl

@[simp] theorem raiseIllegal_ky (s : State) (c : Word) : (raiseIllegal s c).ky = s.ky := rfl

@[simp] theorem raiseIllegal_stdX (s : State) (c : Word) : (raiseIllegal s c).stdX = s.stdX := rfl

@[simp] theorem raiseIllegal_stdY (s : State) (c : Word) : (raiseIllegal s c).stdY = s.stdY := rfl

@[simp] theorem raiseIllegal_k1 (s : State) (c : Word) : (raiseIllegal s c).k1 = s.k1 := rfl

@[simp] theorem raiseIllegal_k2 (s : State) (c : Word) : (raiseIllegal s c).k2 = s.k2 := rfl

@[simp] theorem raiseIllegal_k3 (s : State) (c : Word) : (raiseIllegal s c).k3 = s.k3 := rfl

@[simp] theorem raiseIllegal_k4 (s : State) (c : Word) : (raiseIllegal s c).k4 = s.k4 := rfl

@[simp] theorem raiseIllegal_m (s : State) (c : Word) : (raiseIllegal s c).m = s.m := rfl

@[simp] theorem raiseIllegal_mem (s : State) (c : Word) : (raiseIllegal s c).mem = s.mem := rfl

@[simp] theorem raiseIllegal_pending (s : State) (c : Word) : (raiseIllegal s c).pending = s.pending := rfl

@[simp] theorem raiseIllegal_replies (s : State) (c : Word) : (raiseIllegal s c).replies = s.replies := rfl

@[simp] theorem raiseIllegal_params (s : State) (c : Word) : (raiseIllegal s c).params = s.params := rfl

/-! ## `writeStatus`: returning from it -/

@[simp] theorem writeStatus_status (s : State) (v : Word) : (writeStatus s v).status = statusWrite s.status v := rfl

@[simp] theorem writeStatus_illcmd (s : State) (v : Word) : (writeStatus s v).illcmd = s.illcmd := rfl

@[simp] theorem writeStatus_effdim (s : State) (v : Word) : (writeStatus s v).effdim = s.effdim := rfl

@[simp] theorem writeStatus_lastk (s : State) (v : Word) : (writeStatus s v).lastk = s.lastk := rfl

@[simp] theorem writeStatus_s0 (s : State) (v : Word) : (writeStatus s v).s0 = s.s0 := rfl

@[simp] theorem writeStatus_s1 (s : State) (v : Word) : (writeStatus s v).s1 = s.s1 := rfl

@[simp] theorem writeStatus_s2 (s : State) (v : Word) : (writeStatus s v).s2 = s.s2 := rfl

@[simp] theorem writeStatus_subX (s : State) (v : Word) : (writeStatus s v).subX = s.subX := rfl

@[simp] theorem writeStatus_subY (s : State) (v : Word) : (writeStatus s v).subY = s.subY := rfl

@[simp] theorem writeStatus_subW (s : State) (v : Word) : (writeStatus s v).subW = s.subW := rfl

@[simp] theorem writeStatus_subH (s : State) (v : Word) : (writeStatus s v).subH = s.subH := rfl

@[simp] theorem writeStatus_kx (s : State) (v : Word) : (writeStatus s v).kx = s.kx := rfl

@[simp] theorem writeStatus_ky (s : State) (v : Word) : (writeStatus s v).ky = s.ky := rfl

@[simp] theorem writeStatus_stdX (s : State) (v : Word) : (writeStatus s v).stdX = s.stdX := rfl

@[simp] theorem writeStatus_stdY (s : State) (v : Word) : (writeStatus s v).stdY = s.stdY := rfl

@[simp] theorem writeStatus_k1 (s : State) (v : Word) : (writeStatus s v).k1 = s.k1 := rfl

@[simp] theorem writeStatus_k2 (s : State) (v : Word) : (writeStatus s v).k2 = s.k2 := rfl

@[simp] theorem writeStatus_k3 (s : State) (v : Word) : (writeStatus s v).k3 = s.k3 := rfl

@[simp] theorem writeStatus_k4 (s : State) (v : Word) : (writeStatus s v).k4 = s.k4 := rfl

@[simp] theorem writeStatus_m (s : State) (v : Word) : (writeStatus s v).m = s.m := rfl

@[simp] theorem writeStatus_mem (s : State) (v : Word) : (writeStatus s v).mem = s.mem := rfl

@[simp] theorem writeStatus_pending (s : State) (v : Word) : (writeStatus s v).pending = s.pending := rfl

@[simp] theorem writeStatus_replies (s : State) (v : Word) : (writeStatus s v).replies = s.replies := rfl

@[simp] theorem writeStatus_params (s : State) (v : Word) : (writeStatus s v).params = s.params := rfl

/-! ## `hostReply`: a value for the host -/

@[simp] theorem hostReply_status (s : State) (v : Word) : (hostReply s v).status = s.status := rfl

@[simp] theorem hostReply_illcmd (s : State) (v : Word) : (hostReply s v).illcmd = s.illcmd := rfl

@[simp] theorem hostReply_effdim (s : State) (v : Word) : (hostReply s v).effdim = s.effdim := rfl

@[simp] theorem hostReply_lastk (s : State) (v : Word) : (hostReply s v).lastk = s.lastk := rfl

@[simp] theorem hostReply_s0 (s : State) (v : Word) : (hostReply s v).s0 = s.s0 := rfl

@[simp] theorem hostReply_s1 (s : State) (v : Word) : (hostReply s v).s1 = s.s1 := rfl

@[simp] theorem hostReply_s2 (s : State) (v : Word) : (hostReply s v).s2 = s.s2 := rfl

@[simp] theorem hostReply_subX (s : State) (v : Word) : (hostReply s v).subX = s.subX := rfl

@[simp] theorem hostReply_subY (s : State) (v : Word) : (hostReply s v).subY = s.subY := rfl

@[simp] theorem hostReply_subW (s : State) (v : Word) : (hostReply s v).subW = s.subW := rfl

@[simp] theorem hostReply_subH (s : State) (v : Word) : (hostReply s v).subH = s.subH := rfl

@[simp] theorem hostReply_kx (s : State) (v : Word) : (hostReply s v).kx = s.kx := rfl

@[simp] theorem hostReply_ky (s : State) (v : Word) : (hostReply s v).ky = s.ky := rfl

@[simp] theorem hostReply_stdX (s : State) (v : Word) : (hostReply s v).stdX = s.stdX := rfl

@[simp] theorem hostReply_stdY (s : State) (v : Word) : (hostReply s v).stdY = s.stdY := rfl

@[simp] theorem hostReply_k1 (s : State) (v : Word) : (hostReply s v).k1 = s.k1 := rfl

@[simp] theorem hostReply_k2 (s : State) (v : Word) : (hostReply s v).k2 = s.k2 := rfl

@[simp] theorem hostReply_k3 (s : State) (v : Word) : (hostReply s v).k3 = s.k3 := rfl

@[simp] theorem hostReply_k4 (s : State) (v : Word) : (hostReply s v).k4 = s.k4 := rfl

@[simp] theorem hostReply_m (s : State) (v : Word) : (hostReply s v).m = s.m := rfl

@[simp] theorem hostReply_mem (s : State) (v : Word) : (hostReply s v).mem = s.mem := rfl

@[simp] theorem hostReply_pending (s : State) (v : Word) : (hostReply s v).pending = s.pending := rfl

@[simp] theorem hostReply_replies (s : State) (v : Word) : (hostReply s v).replies = s.replies ++ [v] := rfl

@[simp] theorem hostReply_params (s : State) (v : Word) : (hostReply s v).params = s.params := rfl

/-! ## `applyReset`: reset -/

@[simp] theorem applyReset_status (s : State) : (applyReset s).status = State.reset.status := rfl

@[simp] theorem applyReset_illcmd (s : State) : (applyReset s).illcmd = State.reset.illcmd := rfl

@[simp] theorem applyReset_effdim (s : State) : (applyReset s).effdim = State.reset.effdim := rfl

@[simp] theorem applyReset_lastk (s : State) : (applyReset s).lastk = State.reset.lastk := rfl

@[simp] theorem applyReset_s0 (s : State) : (applyReset s).s0 = State.reset.s0 := rfl

@[simp] theorem applyReset_s1 (s : State) : (applyReset s).s1 = State.reset.s1 := rfl

@[simp] theorem applyReset_s2 (s : State) : (applyReset s).s2 = State.reset.s2 := rfl

@[simp] theorem applyReset_subX (s : State) : (applyReset s).subX = State.reset.subX := rfl

@[simp] theorem applyReset_subY (s : State) : (applyReset s).subY = State.reset.subY := rfl

@[simp] theorem applyReset_subW (s : State) : (applyReset s).subW = State.reset.subW := rfl

@[simp] theorem applyReset_subH (s : State) : (applyReset s).subH = State.reset.subH := rfl

@[simp] theorem applyReset_kx (s : State) : (applyReset s).kx = State.reset.kx := rfl

@[simp] theorem applyReset_ky (s : State) : (applyReset s).ky = State.reset.ky := rfl

@[simp] theorem applyReset_stdX (s : State) : (applyReset s).stdX = State.reset.stdX := rfl

@[simp] theorem applyReset_stdY (s : State) : (applyReset s).stdY = State.reset.stdY := rfl

@[simp] theorem applyReset_k1 (s : State) : (applyReset s).k1 = State.reset.k1 := rfl

@[simp] theorem applyReset_k2 (s : State) : (applyReset s).k2 = State.reset.k2 := rfl

@[simp] theorem applyReset_k3 (s : State) : (applyReset s).k3 = State.reset.k3 := rfl

@[simp] theorem applyReset_k4 (s : State) : (applyReset s).k4 = State.reset.k4 := rfl

@[simp] theorem applyReset_m (s : State) : (applyReset s).m = State.reset.m := rfl

@[simp] theorem applyReset_mem (s : State) : (applyReset s).mem = s.mem := rfl

@[simp] theorem applyReset_pending (s : State) : (applyReset s).pending = s.pending := rfl

@[simp] theorem applyReset_replies (s : State) : (applyReset s).replies = s.replies := rfl

@[simp] theorem applyReset_params (s : State) : (applyReset s).params = s.params := rfl

/-! ## `placeCommand`: a command placed before the host's actions -/

@[simp] theorem placeCommand_status (s : State) (nbits w : Nat) : (placeCommand s nbits w).status = s.status := rfl

@[simp] theorem placeCommand_illcmd (s : State) (nbits w : Nat) : (placeCommand s nbits w).illcmd = s.illcmd := rfl

@[simp] theorem placeCommand_effdim (s : State) (nbits w : Nat) : (placeCommand s nbits w).effdim = s.effdim := rfl

@[simp] theorem placeCommand_lastk (s : State) (nbits w : Nat) : (placeCommand s nbits w).lastk = s.lastk := rfl

@[simp] theorem placeCommand_s0 (s : State) (nbits w : Nat) : (placeCommand s nbits w).s0 = s.s0 := rfl

@[simp] theorem placeCommand_s1 (s : State) (nbits w : Nat) : (placeCommand s nbits w).s1 = s.s1 := rfl

@[simp] theorem placeCommand_s2 (s : State) (nbits w : Nat) : (placeCommand s nbits w).s2 = s.s2 := rfl

@[simp] theorem placeCommand_subX (s : State) (nbits w : Nat) : (placeCommand s nbits w).subX = s.subX := rfl

@[simp] theorem placeCommand_subY (s : State) (nbits w : Nat) : (placeCommand s nbits w).subY = s.subY := rfl

@[simp] theorem placeCommand_subW (s : State) (nbits w : Nat) : (placeCommand s nbits w).subW = s.subW := rfl

@[simp] theorem placeCommand_subH (s : State) (nbits w : Nat) : (placeCommand s nbits w).subH = s.subH := rfl

@[simp] theorem placeCommand_kx (s : State) (nbits w : Nat) : (placeCommand s nbits w).kx = s.kx := rfl

@[simp] theorem placeCommand_ky (s : State) (nbits w : Nat) : (placeCommand s nbits w).ky = s.ky := rfl

@[simp] theorem placeCommand_stdX (s : State) (nbits w : Nat) : (placeCommand s nbits w).stdX = s.stdX := rfl

@[simp] theorem placeCommand_stdY (s : State) (nbits w : Nat) : (placeCommand s nbits w).stdY = s.stdY := rfl

@[simp] theorem placeCommand_k1 (s : State) (nbits w : Nat) : (placeCommand s nbits w).k1 = s.k1 := rfl

@[simp] theorem placeCommand_k2 (s : State) (nbits w : Nat) : (placeCommand s nbits w).k2 = s.k2 := rfl

@[simp] theorem placeCommand_k3 (s : State) (nbits w : Nat) : (placeCommand s nbits w).k3 = s.k3 := rfl

@[simp] theorem placeCommand_k4 (s : State) (nbits w : Nat) : (placeCommand s nbits w).k4 = s.k4 := rfl

@[simp] theorem placeCommand_m (s : State) (nbits w : Nat) : (placeCommand s nbits w).m = s.m := rfl

@[simp] theorem placeCommand_mem (s : State) (nbits w : Nat) : (placeCommand s nbits w).mem = s.mem := rfl

@[simp] theorem placeCommand_pending (s : State) (nbits w : Nat) : (placeCommand s nbits w).pending = .wr (regIndex .cmd) (BitVec.ofNat 32 (w % 2 ^ nbits)) :: s.pending := rfl

@[simp] theorem placeCommand_replies (s : State) (nbits w : Nat) : (placeCommand s nbits w).replies = s.replies := rfl

@[simp] theorem placeCommand_params (s : State) (nbits w : Nat) : (placeCommand s nbits w).params = s.params := rfl

/-! ## `State.setSlot`: the registers of a slot -/

@[simp] theorem State.setSlot_status (s : State) (n : Slot) (r : SlotRegs) : (s.setSlot n r).status = s.status := by
  cases n <;> rfl

@[simp] theorem State.setSlot_illcmd (s : State) (n : Slot) (r : SlotRegs) : (s.setSlot n r).illcmd = s.illcmd := by
  cases n <;> rfl

@[simp] theorem State.setSlot_effdim (s : State) (n : Slot) (r : SlotRegs) : (s.setSlot n r).effdim = s.effdim := by
  cases n <;> rfl

@[simp] theorem State.setSlot_lastk (s : State) (n : Slot) (r : SlotRegs) : (s.setSlot n r).lastk = s.lastk := by
  cases n <;> rfl

@[simp] theorem State.setSlot_subX (s : State) (n : Slot) (r : SlotRegs) : (s.setSlot n r).subX = s.subX := by
  cases n <;> rfl

@[simp] theorem State.setSlot_subY (s : State) (n : Slot) (r : SlotRegs) : (s.setSlot n r).subY = s.subY := by
  cases n <;> rfl

@[simp] theorem State.setSlot_subW (s : State) (n : Slot) (r : SlotRegs) : (s.setSlot n r).subW = s.subW := by
  cases n <;> rfl

@[simp] theorem State.setSlot_subH (s : State) (n : Slot) (r : SlotRegs) : (s.setSlot n r).subH = s.subH := by
  cases n <;> rfl

@[simp] theorem State.setSlot_kx (s : State) (n : Slot) (r : SlotRegs) : (s.setSlot n r).kx = s.kx := by
  cases n <;> rfl

@[simp] theorem State.setSlot_ky (s : State) (n : Slot) (r : SlotRegs) : (s.setSlot n r).ky = s.ky := by
  cases n <;> rfl

@[simp] theorem State.setSlot_stdX (s : State) (n : Slot) (r : SlotRegs) : (s.setSlot n r).stdX = s.stdX := by
  cases n <;> rfl

@[simp] theorem State.setSlot_stdY (s : State) (n : Slot) (r : SlotRegs) : (s.setSlot n r).stdY = s.stdY := by
  cases n <;> rfl

@[simp] theorem State.setSlot_k1 (s : State) (n : Slot) (r : SlotRegs) : (s.setSlot n r).k1 = s.k1 := by
  cases n <;> rfl

@[simp] theorem State.setSlot_k2 (s : State) (n : Slot) (r : SlotRegs) : (s.setSlot n r).k2 = s.k2 := by
  cases n <;> rfl

@[simp] theorem State.setSlot_k3 (s : State) (n : Slot) (r : SlotRegs) : (s.setSlot n r).k3 = s.k3 := by
  cases n <;> rfl

@[simp] theorem State.setSlot_k4 (s : State) (n : Slot) (r : SlotRegs) : (s.setSlot n r).k4 = s.k4 := by
  cases n <;> rfl

@[simp] theorem State.setSlot_m (s : State) (n : Slot) (r : SlotRegs) : (s.setSlot n r).m = s.m := by
  cases n <;> rfl

@[simp] theorem State.setSlot_mem (s : State) (n : Slot) (r : SlotRegs) : (s.setSlot n r).mem = s.mem := by
  cases n <;> rfl

@[simp] theorem State.setSlot_pending (s : State) (n : Slot) (r : SlotRegs) : (s.setSlot n r).pending = s.pending := by
  cases n <;> rfl

@[simp] theorem State.setSlot_replies (s : State) (n : Slot) (r : SlotRegs) : (s.setSlot n r).replies = s.replies := by
  cases n <;> rfl

@[simp] theorem State.setSlot_params (s : State) (n : Slot) (r : SlotRegs) : (s.setSlot n r).params = s.params := by
  cases n <;> rfl

@[simp] theorem State.slot_setSlot_same (s : State) (n : Slot) (r : SlotRegs) : (s.setSlot n r).slot n = r := by
  cases n <;> rfl

theorem State.slot_setSlot_other (s : State) (n k : Slot) (r : SlotRegs) (h : k ≠ n) :
    (s.setSlot n r).slot k = s.slot k := by
  cases n <;> cases k <;> first | rfl | exact absurd rfl h

/-! ## Surfaces depend on the slot registers only -/

@[simp] theorem surf_setElem (s : State) (e : Nat) (v : Word) (n : Slot) : surf (s.setElem e v) n = surf s n := by
  cases n <;> rfl

@[simp] theorem surf_latchSize (s : State) (d : Nat × Nat) (n : Slot) : surf (latchSize s d) n = surf s n := by
  cases n <;> rfl

@[simp] theorem surf_latchKernels (s : State) (a b : Nat) (n : Slot) : surf (latchKernels s a b) n = surf s n := by
  cases n <;> rfl

/-! ## Reads of memory depend on memory and the byte order only -/

@[simp] theorem elem_latchSize (s : State) (d : Nat × Nat) (e : Nat) : (latchSize s d).elem e = s.elem e := rfl

@[simp] theorem elem_latchKernels (s : State) (a b e : Nat) : (latchKernels s a b).elem e = s.elem e := rfl

@[simp] theorem byteAt_latchSize (s : State) (d : Nat × Nat) (a : Nat) : (latchSize s d).byteAt a = s.byteAt a := rfl

@[simp] theorem byteAt_latchKernels (s : State) (k l a : Nat) : (latchKernels s k l).byteAt a = s.byteAt a := rfl

end Sys2Proof.Machine
end

