-- ==== Sys2Proof/Laws/Memory.lean ====
section
/-! SUPPORT. Pixel memory: a read after a write, and the canonical form that every memory operation keeps. -/

namespace Sys2Proof.Machine

/-! ## Bytes -/

theorem Memory.read?_of_lt (m : Memory) (lo i : Nat) (h : Memory.risingFrom lo m = true) (hi : i ≤ lo) :
    m.read? i = none := by
  induction m generalizing lo with
  | nil => rfl
  | cons c rest ih =>
    obtain ⟨a, v⟩ := c
    simp only [Memory.risingFrom, Bool.and_eq_true, decide_eq_true_eq] at h
    simp [Memory.read?, show i ≠ a by omega, show i < a by omega]

/-- Reading after a write: the byte written at its own address, what was there anywhere else. -/
theorem Memory.read?_write (m : Memory) (i j : Nat) (v : Byte) :
    (m.write i v).read? j = if j = i then some v else m.read? j := by
  induction m with
  | nil =>
    simp only [Memory.write, Memory.read?]
    split <;> simp
  | cons c rest ih =>
    obtain ⟨a, w⟩ := c
    simp only [Memory.write]
    split
    · rename_i h
      by_cases hj : j = i
      · simp [Memory.read?, hj]
      · by_cases h2 : j < i
        · simp [Memory.read?, hj, h2, show j ≠ a by omega, show j < a by omega]
        · simp [Memory.read?, hj, h2]
    · split
      · rename_i h1 h2
        subst h2
        by_cases hj : j = i <;> simp [Memory.read?, hj]
      · rename_i h1 h2
        by_cases hj : j = a
        · simp [Memory.read?, hj, show a ≠ i by omega]
        · by_cases h3 : j < a
          · simp [Memory.read?, hj, h3, show j ≠ i by omega]
          · simp [Memory.read?, hj, h3, ih]

theorem Memory.risingFrom_write (m : Memory) (lo i : Nat) (v : Byte) (h : Memory.risingFrom lo m = true)
    (hi : lo < i) : Memory.risingFrom lo (m.write i v) = true := by
  induction m generalizing lo with
  | nil => simp [Memory.write, Memory.risingFrom, hi]
  | cons c rest ih =>
    obtain ⟨a, w⟩ := c
    simp only [Memory.risingFrom, Bool.and_eq_true, decide_eq_true_eq] at h
    simp only [Memory.write]
    split
    · simp [Memory.risingFrom, h.2, *]
    · split
      · rename_i h1 h2
        subst h2
        simp [Memory.risingFrom, hi, h.2]
      · simp [Memory.risingFrom, h.1, ih a h.2 (by omega)]

/-- A byte write keeps the canonical form. -/
theorem Memory.wf_write (m : Memory) (i : Nat) (v : Byte) (h : m.wf = true) : (m.write i v).wf = true := by
  cases m with
  | nil => rfl
  | cons c rest =>
    obtain ⟨a, w⟩ := c
    simp only [Memory.write]
    split
    · rename_i h1
      simp only [Memory.wf] at h
      simp [Memory.wf, Memory.risingFrom, h1, h]
    · split
      · rename_i h1 h2
        subst h2
        simpa [Memory.wf] using h
      · simpa [Memory.wf] using Memory.risingFrom_write rest a i v h (by omega)

/-- A byte write inside the bounds keeps memory inside them. -/
theorem Memory.within_write (m : Memory) (elems i : Nat) (v : Byte) (h : m.within elems = true) (hi : i < 4 * elems) :
    (m.write i v).within elems = true := by
  induction m with
  | nil => simp [Memory.write, Memory.within, hi]
  | cons c rest ih =>
    obtain ⟨a, w⟩ := c
    simp only [Memory.within, List.all_cons, Bool.and_eq_true, decide_eq_true_eq] at h ih
    simp only [Memory.write]
    split
    · simp [Memory.within, hi, h.1]
      exact List.all_eq_true.mp h.2 |> fun k a b hb => by simpa using k (a, b) hb
    · split
      · simp [Memory.within, hi]
        exact List.all_eq_true.mp h.2 |> fun k a b hb => by simpa using k (a, b) hb
      · simp only [Memory.within, List.all_cons, Bool.and_eq_true, decide_eq_true_eq]
        exact ⟨h.1, ih h.2⟩

/-! ## Elements -/

/-- The byte addresses of element `e` are its four, under either byte order. -/
theorem laneAddr_div (o : ByteOrder) (e j : Nat) (h : j < 4) : laneAddr o e j / 4 = e := by
  cases o <;> simp only [laneAddr] <;> omega

theorem laneAddr_inj (o : ByteOrder) (e j k : Nat) (hj : j < 4) (hk : k < 4) (h : laneAddr o e j = laneAddr o e k) :
    j = k := by
  cases o <;> simp only [laneAddr] at h <;> omega

/-- An element write stores its four bytes and no other. -/
theorem Memory.read?_setElem (m : Memory) (o : ByteOrder) (e : Nat) (v : Word) (a : Nat) :
    (m.setElem o e v).read? a =
      if a = laneAddr o e 3 then some (v.extractLsb' 24 8)
      else if a = laneAddr o e 2 then some (v.extractLsb' 16 8)
      else if a = laneAddr o e 1 then some (v.extractLsb' 8 8)
      else if a = laneAddr o e 0 then some (v.extractLsb' 0 8)
      else m.read? a := by
  simp only [Memory.setElem, Memory.read?_write]

/-- An element write keeps the canonical form. -/
theorem Memory.wf_setElem (m : Memory) (o : ByteOrder) (e : Nat) (v : Word) (h : m.wf = true) :
    (m.setElem o e v).wf = true :=
  Memory.wf_write _ _ _ (Memory.wf_write _ _ _ (Memory.wf_write _ _ _ (Memory.wf_write _ _ _ h)))

/-- A write of an element that exists keeps memory inside its bounds. -/
theorem Memory.within_setElem (m : Memory) (o : ByteOrder) (elems e : Nat) (v : Word) (h : m.within elems = true)
    (he : e < elems) : (m.setElem o e v).within elems = true := by
  have lane : ∀ j, j < 4 → laneAddr o e j < 4 * elems := fun j hj => by
    have := laneAddr_div o e j hj
    omega
  exact Memory.within_write _ _ _ _ (Memory.within_write _ _ _ _ (Memory.within_write _ _ _ _
    (Memory.within_write _ _ _ _ h (lane 0 (by omega))) (lane 1 (by omega))) (lane 2 (by omega))) (lane 3 (by omega))

/-- A byte outside the element written keeps its value. -/
theorem byteAt_setElem_other (s : State) (e : Nat) (v : Word) (a : Nat) (h : a / 4 ≠ e) :
    (s.setElem e v).byteAt a = s.byteAt a := by
  have ne : ∀ j, j < 4 → a ≠ laneAddr s.params.byteOrder e j := fun j hj ha =>
    h (by rw [ha]; exact laneAddr_div _ _ _ hj)
  simp only [State.byteAt, State.setElem, Memory.read?_setElem]
  simp [ne 0 (by omega), ne 1 (by omega), ne 2 (by omega), ne 3 (by omega)]

/-- The state after reset has memory in its canonical form. -/
theorem reset_mem_wf : State.reset.mem.wf = true := rfl

end Sys2Proof.Machine
end

