-- ==== Sys2Proof/Laws/Ops.lean ====
section
/-! SUPPORT. For each shared operation, once, everything it can do: what a prover cites instead of unfolding it. -/

namespace Sys2Proof.Machine

/-! ## Pixels -/

@[simp] theorem unpack_pack (q : Pixel) : unpack (pack q) = q := by
  obtain ⟨a, r, g, b⟩ := q
  simp only [unpack, pack, Pixel.mk.injEq]
  refine ⟨?_, ?_, ?_, ?_⟩ <;>
    (ext i hi
     simp only [BitVec.getElem_extractLsb', BitVec.getLsbD_append]
     grind)

/-! ## Accesses -/

theorem memRead_eq_ok {s : State} {e : Nat} {v : Word} :
    memRead s e = .ok v ↔ e < s.params.memElems ∧ v = s.elem e := by
  unfold memRead
  split
  · simp [*, eq_comm]
  · simp [*]

theorem memWrite_eq_ok {s t : State} {e : Nat} {v : Word} :
    memWrite s e v = .ok t ↔ e < s.params.memElems ∧ t = s.setElem e v := by
  unfold memWrite
  split
  · simp [*, eq_comm]
  · simp [*]

theorem memRead_eq_error {s : State} {e : Nat} {f : Fault} :
    memRead s e = .error f ↔ s.params.memElems ≤ e ∧ f = .outsidePixelMemory e := by
  unfold memRead
  split
  · rename_i h
    simp [show ¬ s.params.memElems ≤ e by omega]
  · rename_i h
    simp [show s.params.memElems ≤ e by omega, eq_comm]

theorem memWrite_eq_error {s : State} {e : Nat} {v : Word} {f : Fault} :
    memWrite s e v = .error f ↔ s.params.memElems ≤ e ∧ f = .outsidePixelMemory e := by
  unfold memWrite
  split
  · rename_i h
    simp [show ¬ s.params.memElems ≤ e by omega]
  · rename_i h
    simp [show s.params.memElems ≤ e by omega, eq_comm]

theorem bind_eq_ok {ε α β : Type} {x : Except ε α} {f : α → Except ε β} {b : β} :
    x.bind f = .ok b ↔ ∃ a, x = .ok a ∧ f a = .ok b := by
  cases x <;> simp [Except.bind]

theorem bind_eq_error {ε α β : Type} {x : Except ε α} {f : α → Except ε β} {e : ε} :
    x.bind f = .error e ↔ x = .error e ∨ ∃ a, x = .ok a ∧ f a = .error e := by
  cases x <;> simp [Except.bind]

theorem finish_eq_next {x : Except Fault State} {t : State} : finish x = .next t ↔ x = .ok t := by
  cases x <;> simp [finish]

theorem finish_eq_fault {x : Except Fault State} {f : Fault} : finish x = .fault f ↔ x = .error f := by
  cases x <;> simp [finish]

theorem finish_ne_refused {x : Except Fault State} {r : Refusal} : finish x ≠ .refused r := by
  cases x <;> simp [finish]

/-! ## Loops -/

/-- A property each iteration carries on holds at the end of a loop that completes. -/
theorem forRange_carries {σ : Type} {body : Nat → σ → Except Fault σ} (P : Nat → σ → Prop) {start count : Nat} {s t : σ}
    (step : ∀ i u v, start ≤ i → i < start + count → P i u → body i u = .ok v → P (i + 1) v)
    (h0 : P start s) (h : forRange body start count s = .ok t) : P (start + count) t := by
  induction count generalizing start s with
  | zero =>
    simp only [forRange, Except.ok.injEq] at h
    subst h
    exact h0
  | succ n ih =>
    simp only [forRange] at h
    obtain ⟨u, hu, hrest⟩ := bind_eq_ok.mp h
    have := ih (start := start + 1) (s := u) (fun i a b h1 h2 => step i a b (by omega) (by omega))
      (step start s u (le_refl _) (by omega) h0 hu) hrest
    rwa [show start + 1 + n = start + (n + 1) by omega] at this

/-- A loop whose every iteration completes and carries a property on completes with it. -/
theorem forRange_completes {σ : Type} {body : Nat → σ → Except Fault σ} (P : Nat → σ → Prop) {start count : Nat} {s : σ}
    (step : ∀ i u, start ≤ i → i < start + count → P i u → ∃ v, body i u = .ok v ∧ P (i + 1) v)
    (h0 : P start s) : ∃ t, forRange body start count s = .ok t ∧ P (start + count) t := by
  induction count generalizing start s with
  | zero => exact ⟨s, rfl, h0⟩
  | succ n ih =>
    obtain ⟨u, hu, hp⟩ := step start s (le_refl _) (by omega) h0
    obtain ⟨t, ht, hq⟩ := ih (start := start + 1) (s := u) (fun i a h1 h2 => step i a (by omega) (by omega)) hp
    refine ⟨t, ?_, ?_⟩
    · simp only [forRange, hu, Except.bind]
      exact ht
    · rwa [show start + 1 + n = start + (n + 1) by omega] at hq

/-- A loop that faults has an iteration that faults. -/
theorem forRange_fault {σ : Type} {body : Nat → σ → Except Fault σ} {start count : Nat} {s : σ} {f : Fault}
    (h : forRange body start count s = .error f) : ∃ i u, start ≤ i ∧ i < start + count ∧ body i u = .error f := by
  induction count generalizing start s with
  | zero => simp [forRange] at h
  | succ n ih =>
    simp only [forRange] at h
    rcases bind_eq_error.mp h with h | ⟨u, -, h⟩
    · exact ⟨start, s, le_refl _, by omega, h⟩
    · obtain ⟨i, v, h1, h2, h3⟩ := ih h
      exact ⟨i, v, by omega, by omega, h3⟩

/-- What one pixel of a one-input command does. -/
theorem mapPixel_eq_ok {A B : Surface} {f : Word → Word} {x y : Nat} {s t : State} :
    mapPixel A B f x y s = .ok t ↔
      A.addr x y < s.params.memElems ∧ B.addr x y < s.params.memElems ∧
        t = s.setElem (B.addr x y) (f (s.elem (A.addr x y))) := by
  unfold mapPixel
  rw [bind_eq_ok]
  constructor
  · rintro ⟨v, hv, ht⟩
    obtain ⟨h1, rfl⟩ := memRead_eq_ok.mp hv
    obtain ⟨h2, rfl⟩ := memWrite_eq_ok.mp ht
    exact ⟨h1, h2, rfl⟩
  · rintro ⟨h1, h2, rfl⟩
    exact ⟨_, memRead_eq_ok.mpr ⟨h1, rfl⟩, memWrite_eq_ok.mpr ⟨h2, rfl⟩⟩

/-- What one pixel of a two-input command does. -/
theorem zipPixel_eq_ok {A B C : Surface} {f : Word → Word → Word} {x y : Nat} {s t : State} :
    zipPixel A B C f x y s = .ok t ↔
      A.addr x y < s.params.memElems ∧ B.addr x y < s.params.memElems ∧ C.addr x y < s.params.memElems ∧
        t = s.setElem (C.addr x y) (f (s.elem (A.addr x y)) (s.elem (B.addr x y))) := by
  unfold zipPixel
  rw [bind_eq_ok]
  constructor
  · rintro ⟨v, hv, hr⟩
    obtain ⟨u, hu, ht⟩ := bind_eq_ok.mp hr
    obtain ⟨h1, rfl⟩ := memRead_eq_ok.mp hv
    obtain ⟨h2, rfl⟩ := memRead_eq_ok.mp hu
    obtain ⟨h3, rfl⟩ := memWrite_eq_ok.mp ht
    exact ⟨h1, h2, h3, rfl⟩
  · rintro ⟨h1, h2, h3, rfl⟩
    exact ⟨_, memRead_eq_ok.mpr ⟨h1, rfl⟩,
      bind_eq_ok.mpr ⟨_, memRead_eq_ok.mpr ⟨h2, rfl⟩, memWrite_eq_ok.mpr ⟨h3, rfl⟩⟩⟩

/-- A property every pixel carries on holds at the end of a pixel loop that completes. -/
theorem pixelLoop_carries {w h : Nat} {body : Nat → Nat → State → Except Fault State} (P : State → Prop) {s t : State}
    (step : ∀ x y u v, x < w → y < h → P u → body x y u = .ok v → P v)
    (h0 : P s) (hl : pixelLoop w h body s = .ok t) : P t :=
  forRange_carries (fun _ => P)
    (fun y _ _ _ hy hu hrow =>
      forRange_carries (fun _ => P) (fun x a b _ hx ha hb => step x y a b (by omega) (by omega) ha hb) hu hrow)
    h0 hl

/-- A loop whose iterations change nothing changes nothing. -/
theorem forRange_idle {σ : Type} {body : Nat → σ → Except Fault σ} (idle : ∀ i u, body i u = .ok u)
    (start count : Nat) (s : σ) : forRange body start count s = .ok s := by
  induction count generalizing start with
  | zero => rfl
  | succ n ih => simp only [forRange, idle, Except.bind, ih]

/-- A pixel loop over an empty region changes nothing. -/
theorem pixelLoop_empty {w h : Nat} (body : Nat → Nat → State → Except Fault State) (s : State)
    (he : w = 0 ∨ h = 0) : pixelLoop w h body s = .ok s := by
  rcases he with rfl | rfl
  · exact forRange_idle (fun _ _ => rfl) 0 h s
  · rfl

/-! ## What a line iteration of the box filter does -/

/-- What loading a pixel of a line does. -/
theorem loadPixel_eq_ok {src : Nat → Nat} {k i : Nat} {L M : Line} :
    loadPixel src k i L = .ok M ↔ src i < L.st.params.memElems ∧ M = absorb (i % k) (L.st.elem (src i)) L := by
  unfold loadPixel
  rw [bind_eq_ok]
  constructor
  · rintro ⟨v, hv, h⟩
    obtain ⟨h1, rfl⟩ := memRead_eq_ok.mp hv
    exact ⟨h1, by simpa [eq_comm] using h⟩
  · rintro ⟨h1, rfl⟩
    exact ⟨_, memRead_eq_ok.mpr ⟨h1, rfl⟩, rfl⟩

/-- What emitting a pixel of a line does. -/
theorem emit_eq_ok {dst : Nat → Nat} {k c : Nat} {L M : Line} :
    emit dst k c L = .ok M ↔
      dst c < L.st.params.memElems ∧ M = { L with st := L.st.setElem (dst c) (average k L) } := by
  unfold emit
  rw [bind_eq_ok]
  constructor
  · rintro ⟨v, hv, h⟩
    obtain ⟨h1, rfl⟩ := memWrite_eq_ok.mp hv
    exact ⟨h1, by simpa [eq_comm] using h⟩
  · rintro ⟨h1, rfl⟩
    exact ⟨_, memWrite_eq_ok.mpr ⟨h1, rfl⟩, rfl⟩

/-! ## The host's actions -/

/-- What a step does: nothing with no action pending, else the first action with that action taken off the list. -/
theorem step_eq (s : State) :
    step s = match s.pending with
      | [] => .next s
      | e :: rest => hostEvent e { s with pending := rest } := rfl

/-- What a host write does, by the class of the register (R23). -/
theorem hostWrite_eq (i : RegIndex) (v : Word) (s : State) :
    hostWrite i v s =
      match regOfIndex i with
      | none => .next s
      | some r =>
        match accessOf r with
        | .rw => .next (regStore s r v)
        | .ro => .next s
        | .wo => runCommand v s
        | .w1c => .next (writeStatus s v) := rfl

/-- What a write of `CMD` does (R82). -/
theorem runCommand_eq (c : Word) (s : State) :
    runCommand c s = match decode c with
      | .ok i => exec i s
      | .error _ => .next (raiseIllegal s c) := rfl

end Sys2Proof.Machine
end

