-- ==== Sys2Proof/Laws/PerInstr.lean ====
section
/-! SUPPORT. One family of statements about every command as syntax: the fields of its word (`30_encoding.md` R80,
R83, R85). -/

namespace Sys2Proof.Laws.EncodingLegal

/-- The word of a command is legal by the prose of R85, and `OPC[7:4]` is one of the four units (R83). -/
def Statement (i : Instr) : Prop :=
  wordLegal (encode i) = true ∧ wordRsv (encode i) = 0 ∧ (wordOpc (encode i)).toNat / 16 ≤ 3

theorem nop : Statement .nop := ⟨rfl, rfl, by decide⟩

theorem copy : Statement .copy := ⟨rfl, rfl, by decide⟩

theorem subsurfS0 : Statement .subsurfS0 := ⟨rfl, rfl, by decide⟩

theorem subsurfS1 : Statement .subsurfS1 := ⟨rfl, rfl, by decide⟩

theorem subsurfS2 : Statement .subsurfS2 := ⟨rfl, rfl, by decide⟩

theorem cmx : Statement .cmx := ⟨rfl, rfl, by decide⟩

theorem lum2a : Statement .lum2a := ⟨rfl, rfl, by decide⟩

theorem s2l : Statement .s2l := ⟨rfl, rfl, by decide⟩

theorem l2s : Statement .l2s := ⟨rfl, rfl, by decide⟩

theorem boxh : Statement .boxh := ⟨rfl, rfl, by decide⟩

theorem boxv : Statement .boxv := ⟨rfl, rfl, by decide⟩

theorem boxhv : Statement .boxhv := ⟨rfl, rfl, by decide⟩

theorem gblur : Statement .gblur := ⟨rfl, rfl, by decide⟩

theorem blendNormal : Statement .blendNormal := ⟨rfl, rfl, by decide⟩

theorem blendMultiply : Statement .blendMultiply := ⟨rfl, rfl, by decide⟩

theorem blendScreen : Statement .blendScreen := ⟨rfl, rfl, by decide⟩

theorem blendOverlay : Statement .blendOverlay := ⟨rfl, rfl, by decide⟩

theorem blendHardlight : Statement .blendHardlight := ⟨rfl, rfl, by decide⟩

theorem blendDarken : Statement .blendDarken := ⟨rfl, rfl, by decide⟩

theorem blendLighten : Statement .blendLighten := ⟨rfl, rfl, by decide⟩

theorem blendDodge : Statement .blendDodge := ⟨rfl, rfl, by decide⟩

theorem blendBurn : Statement .blendBurn := ⟨rfl, rfl, by decide⟩

theorem blendSoftlight : Statement .blendSoftlight := ⟨rfl, rfl, by decide⟩

theorem blendDifference : Statement .blendDifference := ⟨rfl, rfl, by decide⟩

theorem blendExclusion : Statement .blendExclusion := ⟨rfl, rfl, by decide⟩

theorem compOver : Statement .compOver := ⟨rfl, rfl, by decide⟩

theorem compIn : Statement .compIn := ⟨rfl, rfl, by decide⟩

theorem compOut : Statement .compOut := ⟨rfl, rfl, by decide⟩

theorem compAtop : Statement .compAtop := ⟨rfl, rfl, by decide⟩

theorem compXor : Statement .compXor := ⟨rfl, rfl, by decide⟩

theorem arith : Statement .arith := ⟨rfl, rfl, by decide⟩

end Sys2Proof.Laws.EncodingLegal
end

