-- ==== Sys2Proof/Laws/Trig.lean ====
section
/-! SUPPORT. The bounds of `Machine/Trig.lean` hold: of `pi`, and of the cosine and the sine of any rational degrees. -/

namespace Sys2Proof.Machine

open Real Filter Finset

/-- The number lies between the bounds. -/
def Bounds.Holds (b : Bounds) (x : ℝ) : Prop := (b.lo : ℝ) ≤ x ∧ x ≤ (b.hi : ℝ)

theorem Bounds.Holds.neg {b : Bounds} {x : ℝ} (h : b.Holds x) : b.neg.Holds (-x) := by
  simp only [Bounds.Holds, Bounds.neg, Rat.cast_neg] at *
  exact ⟨neg_le_neg h.2, neg_le_neg h.1⟩

theorem altSum_eq_sum (term : Nat → Rat) (k : Nat) : altSum term k = ∑ i ∈ range k, (-1) ^ i * term i := by
  induction k with
  | zero => rfl
  | succ k ih =>
    rw [altSum, ih, sum_range_succ]
    rcases Nat.even_or_odd k with h | h
    · rw [if_pos (Nat.even_iff.mp h), h.neg_one_pow, one_mul]
    · rw [if_neg (by have := Nat.odd_iff.mp h; omega), h.neg_one_pow, neg_one_mul]

/-- An alternating series of falling terms lies between its partial sums. -/
theorem altBounds_holds {term : Nat → Rat} {x : ℝ} (k : Nat) (hanti : ∀ i, term (i + 1) ≤ term i)
    (hsum : HasSum (fun i => (-1) ^ i * (term i : ℝ)) x) : (altBounds term k).Holds x := by
  have hf : Antitone fun i => (term i : ℝ) := antitone_nat_of_succ_le fun i => by exact_mod_cast hanti i
  have ht := hsum.tendsto_sum_nat
  refine ⟨?_, ?_⟩
  · simpa [altBounds, altSum_eq_sum] using hf.alternating_series_le_tendsto ht k
  · simpa [altBounds, altSum_eq_sum] using hf.tendsto_le_alternating_series ht k

theorem arctanTerm_anti {x : Rat} (h0 : 0 ≤ x) (h1 : x ≤ 1) (i : Nat) : arctanTerm x (i + 1) ≤ arctanTerm x i := by
  unfold arctanTerm
  have hp : x ^ (2 * (i + 1) + 1) ≤ x ^ (2 * i + 1) := pow_le_pow_of_le_one h0 h1 (by omega)
  gcongr
  omega

theorem sinTerm_anti {x : Rat} (h0 : 0 ≤ x) (h1 : x ≤ 1) (i : Nat) : sinTerm x (i + 1) ≤ sinTerm x i := by
  unfold sinTerm
  have hp : x ^ (2 * (i + 1) + 1) ≤ x ^ (2 * i + 1) := pow_le_pow_of_le_one h0 h1 (by omega)
  gcongr
  omega

theorem cosTerm_anti {x : Rat} (h0 : 0 ≤ x) (h1 : x ≤ 1) (i : Nat) : cosTerm x (i + 1) ≤ cosTerm x i := by
  unfold cosTerm
  have hp : x ^ (2 * (i + 1)) ≤ x ^ (2 * i) := pow_le_pow_of_le_one h0 h1 (by omega)
  gcongr
  omega

theorem arctan_bounds {x : Rat} (h0 : 0 ≤ x) (h1 : x < 1) (k : Nat) :
    (altBounds (arctanTerm x) k).Holds (arctan x) := by
  refine altBounds_holds k (arctanTerm_anti h0 h1.le) ?_
  have hx : ‖(x : ℝ)‖ < 1 := by
    rw [Real.norm_of_nonneg (by exact_mod_cast h0)]
    exact_mod_cast h1
  simpa [arctanTerm, mul_div_assoc] using Real.hasSum_arctan hx

theorem sin_bounds {x : Rat} (h0 : 0 ≤ x) (h1 : x ≤ 1) (k : Nat) : (altBounds (sinTerm x) k).Holds (sin x) := by
  refine altBounds_holds k (sinTerm_anti h0 h1) ?_
  simpa [sinTerm, mul_div_assoc] using Real.hasSum_sin x

theorem cos_bounds {x : Rat} (h0 : 0 ≤ x) (h1 : x ≤ 1) (k : Nat) : (altBounds (cosTerm x) k).Holds (cos x) := by
  refine altBounds_holds k (cosTerm_anti h0 h1) ?_
  simpa [cosTerm, mul_div_assoc] using Real.hasSum_cos x

theorem piBounds_holds (k : Nat) : (piBounds k).Holds π := by
  have h := Real.four_mul_arctan_inv_5_sub_arctan_inv_239
  have ha := arctan_bounds (x := 1 / 5) (by norm_num) (by norm_num) k
  have hb := arctan_bounds (x := 1 / 239) (by norm_num) (by norm_num) k
  simp only [Bounds.Holds, piBounds] at *
  push_cast at *
  simp only [one_div] at *
  constructor <;> linarith [ha.1, ha.2, hb.1, hb.2]

/-- Angles up to 45 degrees, in radians: the bounds hold and stay inside `0 .. 1`. -/
theorem radians_holds (p : Nat) {r : Rat} (h0 : 0 ≤ r) (h1 : r ≤ 45) :
    (radians p r).Holds (r * π / 180) ∧ 0 ≤ (radians p r).lo ∧ (radians p r).hi ≤ 1 := by
  have hpi := piBounds_holds (termPairs p)
  have hr0 : (0 : ℝ) ≤ r := by exact_mod_cast h0
  have hr1 : (r : ℝ) ≤ 45 := by exact_mod_cast h1
  refine ⟨⟨?_, ?_⟩, le_max_left _ _, min_le_left _ _⟩
  · simp only [radians, Rat.cast_max, Rat.cast_zero, max_le_iff]
    refine ⟨by positivity, ?_⟩
    have hfl : (((r * (piBounds (termPairs p)).lo / 180 * 2 ^ p).floor : Rat)) ≤
        r * (piBounds (termPairs p)).lo / 180 * 2 ^ p := Rat.floor_le _
    have : (((r * (piBounds (termPairs p)).lo / 180 * 2 ^ p).floor : Rat) / 2 ^ p) ≤
        r * (piBounds (termPairs p)).lo / 180 := by
      rw [div_le_iff₀ (by positivity)]
      exact hfl
    have h2 : ((((r * (piBounds (termPairs p)).lo / 180 * 2 ^ p).floor : Rat) / 2 ^ p : Rat) : ℝ) ≤
        r * (piBounds (termPairs p)).lo / 180 := by exact_mod_cast this
    refine h2.trans ?_
    have := hpi.1
    gcongr
  · simp only [radians, Rat.cast_min, Rat.cast_one, le_min_iff]
    refine ⟨by nlinarith [Real.pi_lt_four, Real.pi_pos], ?_⟩
    have hcl : r * (piBounds (termPairs p)).hi / 180 * 2 ^ p ≤
        ((r * (piBounds (termPairs p)).hi / 180 * 2 ^ p).ceil : Rat) := Rat.le_ceil
    have : r * (piBounds (termPairs p)).hi / 180 ≤
        (((r * (piBounds (termPairs p)).hi / 180 * 2 ^ p).ceil : Rat) / 2 ^ p) := by
      rw [le_div_iff₀ (by positivity)]
      exact hcl
    have h2 : ((r * (piBounds (termPairs p)).hi / 180 : Rat) : ℝ) ≤
        ((((r * (piBounds (termPairs p)).hi / 180 * 2 ^ p).ceil : Rat) / 2 ^ p : Rat) : ℝ) := by exact_mod_cast this
    refine le_trans ?_ h2
    push_cast
    have := hpi.2
    gcongr

/-- The direction's bounds hold of an angle in radians. -/
def Direction.Holds (t : Direction) (q : ℝ) : Prop := t.cosine.Holds (cos q) ∧ t.sine.Holds (sin q)

theorem octant_holds (p : Nat) {r : Rat} (h0 : 0 ≤ r) (h1 : r ≤ 45) : (octant p r).Holds (r * π / 180) := by
  obtain ⟨⟨hlo, hhi⟩, hl0, hh1⟩ := radians_holds p h0 h1
  set q := radians p r
  have hr1 : (r : ℝ) ≤ 45 := by exact_mod_cast h1
  have hL0 : (0 : ℝ) ≤ q.lo := by exact_mod_cast hl0
  have hH1 : (q.hi : ℝ) ≤ 1 := by exact_mod_cast hh1
  have hle : q.lo ≤ q.hi := by exact_mod_cast hlo.trans hhi
  have hpi := Real.pi_gt_three
  have hql : (q.lo : ℝ) ≤ 1 := (hlo.trans hhi).trans hH1
  have cl := cos_bounds hl0 (hle.trans hh1) (termPairs p)
  have ch := cos_bounds (hl0.trans hle) hh1 (termPairs p)
  have sl := sin_bounds hl0 (hle.trans hh1) (termPairs p)
  have sh := sin_bounds (hl0.trans hle) hh1 (termPairs p)
  refine ⟨⟨ch.1.trans ?_, le_trans ?_ cl.2⟩, ⟨sl.1.trans ?_, le_trans ?_ sh.2⟩⟩
  · exact cos_le_cos_of_nonneg_of_le_pi (by linarith) (by linarith) hhi
  · exact cos_le_cos_of_nonneg_of_le_pi hL0 (by linarith) hlo
  · exact sin_le_sin_of_le_of_le_pi_div_two (by linarith) (by linarith) hlo
  · exact sin_le_sin_of_le_of_le_pi_div_two (by linarith) (by linarith) hhi

theorem quadrant_holds (p : Nat) {r : Rat} (h0 : 0 ≤ r) (h1 : r < 90) : (quadrant p r).Holds (r * π / 180) := by
  unfold quadrant
  split
  · exact octant_holds p h0 ‹_›
  · have h := octant_holds p (r := 90 - r) (by linarith) (by linarith)
    have hq : ((90 - r : Rat) : ℝ) * π / 180 = π / 2 - r * π / 180 := by push_cast; ring
    rw [hq] at h
    simp only [Direction.Holds, cos_pi_div_two_sub, sin_pi_div_two_sub] at h
    exact ⟨h.2, h.1⟩

theorem Direction.Holds.turn {t : Direction} {q : ℝ} (h : t.Holds q) : t.turn.Holds (q + π / 2) := by
  simp only [Direction.Holds, Direction.turn, cos_add_pi_div_two, sin_add_pi_div_two] at *
  exact ⟨h.2.neg, h.1⟩

theorem Direction.Holds.wholeTurns {t : Direction} {q : ℝ} (h : t.Holds q) (m : ℤ) :
    t.Holds (q + m * (2 * π)) := by
  simpa only [Direction.Holds, cos_add_int_mul_two_pi, sin_add_int_mul_two_pi] using h

/-- R148's `cos q` and `sin q` lie between the bounds, for every number of degrees. -/
theorem direction_holds (p : Nat) (degrees : Rat) : (direction p degrees).Holds (degrees * π / 180) := by
  set turns := (degrees / 90).floor with hturns
  have hlo : (turns : Rat) ≤ degrees / 90 := Rat.floor_le _
  have hhi : degrees / 90 < turns + 1 := by exact_mod_cast Rat.lt_floor_add_one (degrees / 90)
  have h := quadrant_holds p (r := degrees - 90 * turns) (by linarith) (by linarith)
  have hcast : ((degrees - 90 * turns : Rat) : ℝ) * π / 180 = degrees * π / 180 - turns * (π / 2) := by push_cast; ring
  rw [hcast] at h
  have hdiv : ((turns : ℤ) : ℝ) = 4 * ((turns / 4 : ℤ) : ℝ) + ((turns % 4 : ℤ) : ℝ) := by
    exact_mod_cast (Int.mul_ediv_add_emod turns 4).symm
  have hr : turns % 4 = 0 ∨ turns % 4 = 1 ∨ turns % 4 = 2 ∨ turns % 4 = 3 := by omega
  unfold direction
  rw [← hturns]
  rcases hr with hk | hk | hk | hk <;> rw [hk] at hdiv <;> simp only [hk] <;> norm_num
  · convert h.wholeTurns (turns / 4) using 1
    push_cast [hdiv]; ring
  · convert h.turn.wholeTurns (turns / 4) using 1
    push_cast [hdiv]; ring
  · convert h.turn.turn.wholeTurns (turns / 4) using 1
    push_cast [hdiv]; ring
  · convert h.turn.turn.turn.wholeTurns (turns / 4) using 1
    push_cast [hdiv]; ring

end Sys2Proof.Machine
end

