-- ==== Sys2Proof/Tests/Slice0.lean ====
section
/-! SUPPORT. Tests. Expected values are those of `95_test_vectors.md` (the section is named) or of the rule's own example;
none is the model's answer copied back. Then, for every statement with hypotheses, a state and operands that meet them. -/

namespace Sys2Proof.Tests

open Sys2Proof Sys2Proof.Machine

set_option Elab.async false -- one kernel evaluation at a time: several at once exceed the check's memory

/-! ## Helpers -/

/-- Elements stored from `e` upward. -/
def paint (s : State) (e : Nat) : List Word → State
  | [] => s
  | v :: rest => paint (s.setElem e v) (e + 1) rest

/-- A machine of 64 elements with the default blend functions and the candidate gamma tables. -/
def small (o : ByteOrder) : State :=
  { State.reset with
    params := { memElems := 64, byteOrder := o, lutS2L := candidateS2L, lutL2S := candidateL2S, blendFill := .defaults } }

/-- A descriptor of a surface. -/
def slotOf (base width height stride : Nat) : SlotRegs :=
  { base := BitVec.ofNat 32 base, dim := packDim width height, stride := BitVec.ofNat 32 stride }

/-- One source pixel, one backdrop pixel, one output pixel, at elements 0, 1, 2. -/
def onePixel (p q : Word) : State :=
  { paint (small .little) 0 [p, q, 0xDEADBEEF#32] with
    s0 := slotOf 0 1 1 1, s1 := slotOf 1 1 1 1, s2 := slotOf 2 1 1 1 }

/-- One row at element 0 filtered into element 8 upward, big-endian bytes. -/
def oneRow (l : List Word) : State :=
  { paint (small .big) 0 l with s0 := slotOf 0 l.length 1 l.length, s2 := slotOf 8 l.length 1 l.length }

/-- Surfaces of 2 by 2: S0 at 0, S1 at 8, S2 at 16 with stride 3. -/
def apart : State :=
  { paint (small .little) 0 [0x80402010#32, 0xFFFFFFFF#32] with
    s0 := slotOf 0 2 2 2, s1 := slotOf 8 2 2 2, s2 := slotOf 16 2 2 3 }

/-- The three surfaces alias exactly; the last element of memory is the last of the region. -/
def aliased : State := { apart with s0 := slotOf 60 2 2 2, s1 := slotOf 60 2 2 2, s2 := slotOf 60 2 2 2 }

/-- The region of S2 ends one element past memory. -/
def outside : State := { apart with s2 := slotOf 61 2 2 2 }

/-- The elements `e`, `e+1`, … of the next state. -/
def outputs (r : Result) (e n : Nat) : Option (List Word) :=
  match r with
  | .next t => some ((List.range n).map fun i => t.elem (e + i))
  | _ => none

/-- The outcome is a next state. -/
def isNext : Result → Bool
  | .next _ => true
  | _ => false

theorem exists_next {r : Result} (h : isNext r = true) : ∃ t, r = .next t := by
  cases r with
  | next t => exact ⟨t, rfl⟩
  | fault _ => simp [isNext] at h
  | refused _ => simp [isNext] at h

/-- A register of the next state. -/
def regAfter (r : Result) (k : Reg) : Option Word :=
  match r with
  | .next t => some (regRead t k)
  | _ => none

/-- Every command. -/
def commands : List Instr :=
  [.nop, .copy, .subsurfS0, .subsurfS1, .subsurfS2, .cmx, .lum2a, .s2l, .l2s, .boxh, .boxv, .boxhv, .gblur] ++
  [.blendNormal, .blendMultiply, .blendScreen, .blendOverlay, .blendHardlight, .blendDarken, .blendLighten,
    .blendDodge, .blendBurn, .blendSoftlight, .blendDifference, .blendExclusion] ++
  [.compOver, .compIn, .compOut, .compAtop, .compXor, .arith]

theorem commands_complete (i : Instr) : i ∈ commands := by cases i <;> decide

/-! ## Decoding: words written out as RSV, SUB, OPC from the table of R83 -/

/-- A command word from its three fields (R80). -/
def wordOf (rsv : BitVec 20) (sub : BitVec 4) (opc : Byte) : Word := rsv ++ sub ++ opc

/-- R83, the sdu rows. -/
theorem test_decode_sdu :
    decode (wordOf 0#20 0b0000#4 0b00000000#8) = .ok .nop ∧
    decode (wordOf 0#20 0b0000#4 0b00000001#8) = .ok .copy ∧
    decode (wordOf 0#20 0b0000#4 0b00000010#8) = .ok .subsurfS0 ∧
    decode (wordOf 0#20 0b0001#4 0b00000010#8) = .ok .subsurfS1 ∧
    decode (wordOf 0#20 0b0010#4 0b00000010#8) = .ok .subsurfS2 := by
  decide

/-- R83, the cmx rows. -/
theorem test_decode_cmx :
    decode (wordOf 0#20 0b0000#4 0b00010000#8) = .ok .cmx ∧
    decode (wordOf 0#20 0b0000#4 0b00010001#8) = .ok .lum2a ∧
    decode (wordOf 0#20 0b0000#4 0b00010010#8) = .ok .s2l ∧
    decode (wordOf 0#20 0b0000#4 0b00010011#8) = .ok .l2s := by
  decide

/-- R83, the blur rows. -/
theorem test_decode_blur :
    decode (wordOf 0#20 0b0000#4 0b00100000#8) = .ok .boxh ∧
    decode (wordOf 0#20 0b0000#4 0b00100001#8) = .ok .boxv ∧
    decode (wordOf 0#20 0b0000#4 0b00100010#8) = .ok .boxhv ∧
    decode (wordOf 0#20 0b0000#4 0b00100011#8) = .ok .gblur := by
  decide

/-- R83, the blend rows. -/
theorem test_decode_blend :
    decode (wordOf 0#20 0b0000#4 0b00110000#8) = .ok .blendNormal ∧
    decode (wordOf 0#20 0b0001#4 0b00110000#8) = .ok .blendMultiply ∧
    decode (wordOf 0#20 0b0010#4 0b00110000#8) = .ok .blendScreen ∧
    decode (wordOf 0#20 0b0011#4 0b00110000#8) = .ok .blendOverlay ∧
    decode (wordOf 0#20 0b0100#4 0b00110000#8) = .ok .blendHardlight ∧
    decode (wordOf 0#20 0b0101#4 0b00110000#8) = .ok .blendDarken ∧
    decode (wordOf 0#20 0b0110#4 0b00110000#8) = .ok .blendLighten ∧
    decode (wordOf 0#20 0b0111#4 0b00110000#8) = .ok .blendDodge ∧
    decode (wordOf 0#20 0b1000#4 0b00110000#8) = .ok .blendBurn ∧
    decode (wordOf 0#20 0b1001#4 0b00110000#8) = .ok .blendSoftlight ∧
    decode (wordOf 0#20 0b1010#4 0b00110000#8) = .ok .blendDifference ∧
    decode (wordOf 0#20 0b1011#4 0b00110000#8) = .ok .blendExclusion := by
  decide

/-- R83, the composite rows. -/
theorem test_decode_composite :
    decode (wordOf 0#20 0b0000#4 0b00110001#8) = .ok .compOver ∧
    decode (wordOf 0#20 0b0001#4 0b00110001#8) = .ok .compIn ∧
    decode (wordOf 0#20 0b0010#4 0b00110001#8) = .ok .compOut ∧
    decode (wordOf 0#20 0b0011#4 0b00110001#8) = .ok .compAtop ∧
    decode (wordOf 0#20 0b0100#4 0b00110001#8) = .ok .compXor ∧
    decode (wordOf 0#20 0b0000#4 0b00110010#8) = .ok .arith := by
  decide

/-- The illegal words of 2.10, each with the part that is wrong. -/
theorem test_decode_illegal :
    decode 0x00000C30#32 = .error .badSelector ∧ decode 0x00000531#32 = .error .badSelector ∧
    decode 0x00000302#32 = .error .badSelector ∧ decode 0x00000110#32 = .error .badSelector ∧
    decode 0x00000100#32 = .error .badSelector ∧ decode 0x00001000#32 = .error .reservedBits ∧
    decode 0x80000030#32 = .error .reservedBits ∧ decode 0xFFFFFFFF#32 = .error .reservedBits ∧
    decode 0x00000003#32 = .error .unknownOpcode ∧ decode 0x00000014#32 = .error .unknownOpcode ∧
    decode 0x00000024#32 = .error .unknownOpcode ∧ decode 0x00000033#32 = .error .unknownOpcode ∧
    decode 0x000000FF#32 = .error .unknownOpcode := by
  decide

/-- The host's question about a table row, and the step that runs it first after reset. -/
theorem test_table_word :
    decodeTableWord 32 0x00000931 = none ∧ decodeTableWord 32 0x00000930 = some .blendSoftlight ∧
    ∀ i ∈ commands, decodeTableWord 32 (encode i).toNat = some i ∧
      isNext (step (State.reset.withFetchWord 32 (encode i).toNat)) = true := by
  decide +kernel

/-! ## Well-formedness: an ill-formed term for each check -/

theorem test_wellFormed_refuses_reserved_bits : rsvOk 0x00001000#32 = false ∧ wordLegal 0x00001000#32 = false := by decide

theorem test_wellFormed_refuses_opcode : opcOk 0x00000003#32 = false ∧ wordLegal 0x00000003#32 = false := by decide

theorem test_wellFormed_refuses_selector : subOk 0x00000C30#32 = false ∧ wordLegal 0x00000C30#32 = false := by decide

theorem test_wellFormed_refuses_falling_table :
    ¬ tableRising (Vector.ofFn fun i : Fin 256 => if i.val = 254 then 1#8 else 0#8) := by
  intro h
  exact absurd (h 254) (by decide +kernel)

theorem test_candidate_tables_rise : tableRising candidateS2L ∧ tableRising candidateL2S := by
  constructor
  · intro i
    simp only [candidateS2L, Vector.get_ofFn, Fin.val_castSucc, Fin.val_succ]
    revert i
    decide +kernel
  · intro i
    simp only [candidateL2S, Vector.get_ofFn, Fin.val_castSucc, Fin.val_succ]
    revert i
    decide +kernel

/-! ## Arithmetic (2.1, 2.7) -/

theorem test_codec :
    premul 255 128 = 128 ∧ premul 200 100 = 78 ∧ premul 128 127 = 64 ∧ premul 1 1 = 0 ∧ premul 255 0 = 0 ∧
    unpremul 64 128 = 127 ∧ unpremul 128 128 = 255 ∧ unpremul 200 100 = 510 ∧ unpremul 7 0 = 0 := by
  decide

theorem test_clampI : [-5, 0, 255, 256, 510].map clampI = [0, 0, 255, 255, 255] := by decide

/-- 127.9, 255.0, 255.5, -0.5, 0.99, -0.0, NaN, +inf, -inf. -/
theorem test_clampF :
    [0x42FFCCCD#32, 0x437F0000#32, 0x437F8000#32, 0xBF000000#32, 0x3F7D70A4#32, 0x80000000#32, 0x7FC00000#32,
      0x7F800000#32, 0xFF800000#32].map (fun w => clampF (f32OfBits w)) =
    [127, 255, 255, 0, 0, 0, 0, 255, 0] := by
  decide +kernel

theorem test_div255 :
    [0, 127, 128, 255, 256, 382, 383, 33023, 65025, 65535, 130050].map div255 =
    [0, 0, 1, 1, 1, 1, 2, 129, 255, 257, 510] ∧ div255 (-1) = 0 ∧ div255 (-129) = -1 := by
  decide

theorem test_kernelFromStd :
    [0x00000000#32, 0x3E851EB8#32, 0x3E8A3D71#32, 0x3F4A3D71#32, 0x3F4CCCCD#32, 0x3F800000#32, 0x40400000#32,
      0x43880000#32, 0x43880CCD#32, 0x43960000#32, 0xBF800000#32, 0x7FC00000#32, 0x7F800000#32, 0xFF800000#32].map
      kernelFromStd =
    [0, 0, 1, 1, 2, 2, 6, 511, 512, 564, -2, 0, 2147483647, -2147483648] := by
  decide +kernel

/-- Binary32 corners: a tie to even, a sum that rounds, overflow, the least subnormal halved, `inf - inf`, `0 * inf`. -/
theorem test_float_corners :
    bitsOfF32 (fadd (f32OfBits 0x4B800000#32) (f32OfBits 0x3F800000#32)) = 0x4B800000#32 ∧
    bitsOfF32 (fadd (f32OfBits 0x4B800001#32) (f32OfBits 0x3F800000#32)) = 0x4B800002#32 ∧
    bitsOfF32 (fmul (f32OfBits 0x7F7FFFFF#32) (f32OfBits 0x40000000#32)) = 0x7F800000#32 ∧
    bitsOfF32 (fmul (f32OfBits 0x00000001#32) (f32OfBits 0x3F000000#32)) = 0x00000000#32 ∧
    bitsOfF32 (fdiv (f32OfBits 0x3F800000#32) (f32OfBits 0x40400000#32)) = 0x3EAAAAAB#32 ∧
    fadd (.inf false) (.inf true) = .nan ∧ fmul (f32OfBits 0) (.inf false) = .nan := by
  decide +kernel

/-! ## Memory, registers, exception, reset (2.10, P4) -/

theorem test_register_access :
    indexRead State.reset 0x00 = 0x50464501#32 ∧
    regAfter (hostWrite 0x00 0 State.reset) .id = some 0x50464501#32 ∧
    regAfter (hostWrite 0x04 5 State.reset) .effdim = some 0 ∧
    regAfter (hostWrite 0x09 0xFFFFFFFF#32 State.reset) (.dim .s0) = some 0xFFFFFFFF#32 ∧
    regAfter (hostWrite 0x33 7 State.reset) (.mat 19) = some 7 ∧
    regAfter (hostWrite 0x02 0xFFFFFFFF#32 State.reset) .status = some 0 ∧ indexRead State.reset 0x3F = 0 := by
  decide +kernel

/-- P4: two illegal words, then `CLRILL`. -/
theorem test_illegal_then_clear :
    (match Sys2Proof.core.run 3
        { State.reset with pending := [.wr 1 0x00000C30#32, .wr 1 0x00001000#32, .wr 2 0x00000002#32] } with
      | .next t => some (t.status, t.illcmd, t.pending)
      | _ => none) = some (0, 0x00000C30#32, []) ∧
    (raiseIllegal (raiseIllegal State.reset 0x00000C30#32) 0x00001000#32).illcmd = 0x00000C30#32 ∧
    (raiseIllegal State.reset 0x00000C30#32).status = 0x00000002#32 := by
  decide +kernel

/-- The two byte orders store an element in opposite orders. -/
theorem test_byte_order :
    ((small .little).setElem 1 0x11223344#32).mem = [(4, 0x44), (5, 0x33), (6, 0x22), (7, 0x11)] ∧
    ((small .big).setElem 1 0x11223344#32).mem = [(4, 0x11), (5, 0x22), (6, 0x33), (7, 0x44)] ∧
    ((small .big).setElem 1 0x11223344#32).elem 1 = 0x11223344#32 := by
  decide +kernel

/-! ## The surface-descriptor unit (2.2) -/

theorem test_nop : exec .nop State.reset = .next State.reset := rfl

theorem test_copy_crops :
    let s := { paint (small .little) 0 [0x11111111#32, 0x22222222#32] with s0 := slotOf 0 2 1 2, s2 := slotOf 8 1 1 1 }
    outputs (exec .copy s) 8 1 = some [0x11111111#32] ∧ regAfter (exec .copy s) .effdim = some 0x00010001#32 := by
  decide +kernel

/-- P5: the write address 16 is outside a memory of 16 elements. -/
theorem test_copy_faults_outside :
    (match exec .copy { State.reset with
        params := { (small .little).params with memElems := 16 }, s0 := slotOf 0 4 4 4, s2 := slotOf 8 4 4 4 } with
      | .fault f => some f
      | _ => none) = some (.outsidePixelMemory 16) := by
  decide +kernel

/-- The parent {base 100, 10 by 8, stride 16} under four requests. -/
def subOf (n : Slot) (i : Instr) (x y w h : Int) : Option (Nat × Word × Nat) :=
  let s := { State.reset.setSlot n (slotOf 100 10 8 16) with
    subX := BitVec.ofInt 32 x, subY := BitVec.ofInt 32 y, subW := BitVec.ofInt 32 w, subH := BitVec.ofInt 32 h }
  match exec i s with
  | .next t => some ((t.slot n).base.toNat, (t.slot n).dim, (t.slot n).stride.toNat)
  | _ => none

theorem test_subsurf_s0 : subOf .s0 .subsurfS0 2 3 4 4 = some (150, 0x00040004#32, 16) := by decide +kernel

theorem test_subsurf_s1 :
    subOf .s1 .subsurfS1 8 6 5 5 = some (204, 0x00020002#32, 16) ∧
    subOf .s1 .subsurfS1 (-3) (-1) 5 5 = some (100, 0x00050005#32, 16) := by
  decide +kernel

theorem test_subsurf_s2 :
    subOf .s2 .subsurfS2 12 9 3 3 = some (238, 0x00000000#32, 16) ∧
    subOf .s2 .subsurfS2 0 0 (-1) 4 = some (100, 0x00040000#32, 16) := by
  decide +kernel

/-! ## The colour-matrix unit (2.3, 2.4, 2.5) -/

/-- A one-pixel state with twenty matrix words. -/
def withMatrix (p : Word) (v : Vector Rat 20) : State := { onePixel p 0 with m := v.map f32OfRat }

theorem test_cmx_identity_and_opacity :
    outputs (exec .cmx (withMatrix 0x80402010#32 identityMatrix)) 2 1 = some [0x803F1F0F#32] ∧
    outputs (exec .cmx (withMatrix 0x6400C800#32 identityMatrix)) 2 1 = some [0x64006400#32] ∧
    outputs (exec .cmx (withMatrix 0x80402010#32 (opacityMatrix 0.5))) 2 1 = some [0x40200F07#32] := by
  decide +kernel

theorem test_cmx_invert_and_contrast :
    outputs (exec .cmx (withMatrix 0xFF204060#32 (invertMatrix 1))) 2 1 = some [0xFFDFBF9F#32] ∧
    outputs (exec .cmx (withMatrix 0xFF808080#32 (contrastMatrix 0.5))) 2 1 = some [0xFF7F7F7F#32] ∧
    outputs (exec .cmx (withMatrix 0xFF90FF10#32 (brightnessMatrix 2))) 2 1 = some [0xFFFFFF20#32] := by
  decide +kernel

theorem test_lum2a :
    [0xFFFFFFFF#32, 0xFFFF0000#32, 0xFF00FF00#32, 0x80402010#32, 0x6400C800#32].map
      (fun p => outputs (exec .lum2a (onePixel p 0)) 2 1) =
    [some [0xFF000000#32], some [0x36000000#32], some [0xB6000000#32], some [0x4A000000#32], some [0xFF000000#32]] := by
  decide +kernel

/-- Under the candidate tables. -/
theorem test_s2l :
    outputs (exec .s2l (onePixel 0x80402010#32 0)) 2 1 = some [0x801B0601#32] ∧
    outputs (exec .s2l (onePixel 0x6400C800#32 0)) 2 1 = some [0x64006400#32] := by
  decide +kernel

/-- Under the candidate tables. -/
theorem test_l2s :
    outputs (exec .l2s (onePixel 0x80402010#32 0)) 2 1 = some [0x805E4431#32] ∧
    outputs (exec .l2s (onePixel 0x00FFFFFF#32 0)) 2 1 = some [0x00000000#32] := by
  decide +kernel

/-! ## The box-blur unit (2.6, 2.7) -/

/-- The line `L` of 2.6. -/
def lineL : List Word := [0xFF00000A#32, 0xFF000014#32, 0xFF00001E#32, 0xFF000028#32, 0xFF000032#32]

theorem test_boxh_even_kernel :
    let r := exec .boxh { oneRow lineL with kx := 2 }
    outputs r 8 5 = some [0xFF00000F#32, 0xFF000019#32, 0xFF000023#32, 0xFF00002D#32, 0x7F000019#32] ∧
    regAfter r .lastk = some 2 := by
  decide +kernel

/-- In place, the kernel 7 capped to the width (P4). -/
theorem test_boxh_in_place :
    let r := exec .boxh { oneRow lineL with kx := 7, s2 := slotOf 0 5 1 5 }
    outputs r 0 5 = some [0x9900000C#32, 0xCC000014#32, 0xFF00001E#32, 0xCC00001C#32, 0x99000018#32] ∧
    regAfter r .lastk = some 5 := by
  decide +kernel

theorem test_boxv :
    let s := { paint (small .little) 0 [0xFF00000A#32, 0x10101010#32, 0xFF000014#32, 0x20202020#32, 0xFF00001E#32,
        0x30303030#32, 0xFF000028#32, 0x40404040#32] with
      s0 := slotOf 0 2 4 2, s2 := slotOf 16 2 4 2, ky := 3 }
    outputs (exec .boxv s) 16 8 = some [0xAA00000A#32, 0x10101010#32, 0xFF000014#32, 0x20202020#32, 0xFF00001E#32,
      0x30303030#32, 0xAA000017#32, 0x25252525#32] ∧
    regAfter (exec .boxv s) .lastk = some 0x00030000#32 := by
  decide +kernel

theorem test_boxhv :
    let z : Word := 0xFF000000#32
    let s := { paint (small .little) 0 [z, z, z, z, 0xFF000090#32, z, z, z, z] with
      s0 := slotOf 0 3 3 3, s2 := slotOf 16 3 3 3, kx := 3, ky := 3 }
    outputs (exec .boxhv s) 16 5 =
      some [0x71000010#32, 0xAA000010#32, 0x71000010#32, 0xAA000010#32, 0xFF000010#32] := by
  decide +kernel

/-- Example (b) of 2.7, in place. -/
theorem test_gblur_in_place :
    let s := { oneRow [0xFF000040#32, 0xFF000080#32, 0xFF0000C0#32, 0xFF0000FF#32] with
      s2 := slotOf 0 4 1 4, stdX := 0x3F800000#32 }
    outputs (exec .gblur s) 0 4 = some [0xFF00009F#32, 0xDF0000B7#32, 0x7F000077#32, 0x1F00001F#32] ∧
    regAfter (exec .gblur s) .lastk = some 2 := by
  decide +kernel

/-- Example (f) of 2.7: the kernel 564 capped to 3. -/
theorem test_gblur_capped :
    let s := { oneRow [0xFF00000A#32, 0xFF000014#32, 0xFF00001E#32] with stdX := 0x43960000#32 }
    outputs (exec .gblur s) 8 3 = some [0x71000008#32, 0xA000000C#32, 0x71000009#32] := by
  decide +kernel

/-! ## The blend and composite units (2.8, 2.9), columns A, C (blend) and A, F, J (composite) -/

theorem test_blendNormal :
    outputs (exec .blendNormal (onePixel 0x80800040#32 0xC0004080#32)) 2 1 = some [0xE0802080#32] ∧
    outputs (exec .blendNormal (onePixel 0x80402010#32 0x80102040#32)) 2 1 = some [0xC0483030#32] := by
  decide +kernel

theorem test_blendMultiply :
    outputs (exec .blendMultiply (onePixel 0x80800040#32 0xC0004080#32)) 2 1 = some [0xE0202070#32] ∧
    outputs (exec .blendMultiply (onePixel 0x80402010#32 0x80102040#32)) 2 1 = some [0xC02C242C#32] := by
  decide +kernel

theorem test_blendScreen :
    outputs (exec .blendScreen (onePixel 0x80800040#32 0xC0004080#32)) 2 1 = some [0xE08040A0#32] ∧
    outputs (exec .blendScreen (onePixel 0x80402010#32 0x80102040#32)) 2 1 = some [0xC04C3C4C#32] := by
  decide +kernel

theorem test_blendOverlay :
    outputs (exec .blendOverlay (onePixel 0x80800040#32 0xC0004080#32)) 2 1 = some [0xE0202090#32] ∧
    outputs (exec .blendOverlay (onePixel 0x80402010#32 0x80102040#32)) 2 1 = some [0xC0302830#32] := by
  decide +kernel

theorem test_blendHardlight :
    outputs (exec .blendHardlight (onePixel 0x80800040#32 0xC0004080#32)) 2 1 = some [0xE0802090#32] ∧
    outputs (exec .blendHardlight (onePixel 0x80402010#32 0x80102040#32)) 2 1 = some [0xC0302830#32] := by
  decide +kernel

theorem test_blendDarken :
    outputs (exec .blendDarken (onePixel 0x80800040#32 0xC0004080#32)) 2 1 = some [0xE0202080#32] ∧
    outputs (exec .blendDarken (onePixel 0x80402010#32 0x80102040#32)) 2 1 = some [0xC0303030#32] := by
  decide +kernel

theorem test_blendLighten :
    outputs (exec .blendLighten (onePixel 0x80800040#32 0xC0004080#32)) 2 1 = some [0xE0804090#32] ∧
    outputs (exec .blendLighten (onePixel 0x80402010#32 0x80102040#32)) 2 1 = some [0xC0483048#32] := by
  decide +kernel

theorem test_blendDodge :
    outputs (exec .blendDodge (onePixel 0x80800040#32 0xC0004080#32)) 2 1 = some [0xE02040B0#32] ∧
    outputs (exec .blendDodge (onePixel 0x80402010#32 0x80102040#32)) 2 1 = some [0xC038354D#32] := by
  decide +kernel

theorem test_blendBurn :
    outputs (exec .blendBurn (onePixel 0x80800040#32 0xC0004080#32)) 2 1 = some [0xE0202070#32] ∧
    outputs (exec .blendBurn (onePixel 0x80402010#32 0x80102040#32)) 2 1 = some [0xC0282028#32] := by
  decide +kernel

theorem test_blendDifference :
    outputs (exec .blendDifference (onePixel 0x80800040#32 0xC0004080#32)) 2 1 = some [0xE0804060#32] ∧
    outputs (exec .blendDifference (onePixel 0x80402010#32 0x80102040#32)) 2 1 = some [0xC0402040#32] := by
  decide +kernel

theorem test_blendExclusion :
    outputs (exec .blendExclusion (onePixel 0x80800040#32 0xC0004080#32)) 2 1 = some [0xE0804080#32] ∧
    outputs (exec .blendExclusion (onePixel 0x80402010#32 0x80102040#32)) 2 1 = some [0xC0483848#32] := by
  decide +kernel

/-- Only the alpha of soft-light is fixed: 0xE0 for column A. -/
theorem test_blendSoftlight :
    (unpack (blendPixel fnSoftlight 0x80800040#32 0xC0004080#32)).a = 0xE0#8 ∧
    isNext (exec .blendSoftlight (onePixel 0x80800040#32 0xC0004080#32)) = true := by
  constructor
  · simp only [blendPixel, unpack_pack]
    decide
  · decide +kernel

theorem test_compOver :
    outputs (exec .compOver (onePixel 0x80800040#32 0xC0004080#32)) 2 1 = some [0xE0802080#32] ∧
    outputs (exec .compOver (onePixel 0xFF102030#32 0xC0004080#32)) 2 1 = some [0xFF102030#32] ∧
    outputs (exec .compOver (onePixel 0x20FF0000#32 0x20FF0000#32)) 2 1 = some [0x3CFF0000#32] := by
  decide +kernel

theorem test_compIn :
    outputs (exec .compIn (onePixel 0x80800040#32 0xC0004080#32)) 2 1 = some [0x60600030#32] ∧
    outputs (exec .compIn (onePixel 0xFF102030#32 0xC0004080#32)) 2 1 = some [0xC00C1824#32] ∧
    outputs (exec .compIn (onePixel 0x20FF0000#32 0x20FF0000#32)) 2 1 = some [0x04200000#32] := by
  decide +kernel

theorem test_compOut :
    outputs (exec .compOut (onePixel 0x80800040#32 0xC0004080#32)) 2 1 = some [0x20200010#32] ∧
    outputs (exec .compOut (onePixel 0xFF102030#32 0xC0004080#32)) 2 1 = some [0x3F04080C#32] ∧
    outputs (exec .compOut (onePixel 0x20FF0000#32 0x20FF0000#32)) 2 1 = some [0x1CDF0000#32] := by
  decide +kernel

theorem test_compAtop :
    outputs (exec .compAtop (onePixel 0x80800040#32 0xC0004080#32)) 2 1 = some [0xC0602070#32] ∧
    outputs (exec .compAtop (onePixel 0xFF102030#32 0xC0004080#32)) 2 1 = some [0xC00C1824#32] ∧
    outputs (exec .compAtop (onePixel 0x20FF0000#32 0x20FF0000#32)) 2 1 = some [0x20FF0000#32] := by
  decide +kernel

theorem test_compXor :
    outputs (exec .compXor (onePixel 0x80800040#32 0xC0004080#32)) 2 1 = some [0x80202050#32] ∧
    outputs (exec .compXor (onePixel 0xFF102030#32 0xC0004080#32)) 2 1 = some [0x3F04080C#32] ∧
    outputs (exec .compXor (onePixel 0x20FF0000#32 0x20FF0000#32)) 2 1 = some [0x38FF0000#32] := by
  decide +kernel

/-- Coefficients of `ARITH` on column A. -/
def arithA (k1 k2 k3 k4 : Word) : Option (List Word) :=
  outputs (exec .arith { onePixel 0x80800040#32 0xC0004080#32 with k1 := k1, k2 := k2, k3 := k3, k4 := k4 }) 2 1

theorem test_arith :
    arithA 0 0x3F800000#32 0 0 = some [0x80800040#32] ∧ arithA 0 0x3F000000#32 0x3F000000#32 0 = some [0xA0402060#32] ∧
    arithA 0xBF800000#32 0x3F800000#32 0x3F800000#32 0 = some [0xDF80409F#32] := by
  decide +kernel

theorem test_arith_infinity_and_nan :
    arithA 0x7F800000#32 0 0 0 = some [0xFF0000FF#32] ∧ arithA 0x7FC00000#32 0 0 0 = some [0x00000000#32] ∧
    arithA 0 0x3F800000#32 0 0xBE800000#32 = some [0x40400000#32] := by
  decide +kernel

/-! ## The assembler (`30_encoding.md` R90, R91; `41_color_transform.md` R133) -/

theorem test_float_literals :
    [0.5, 1, -1, 2, 0.2126, 0.7152, 0.0722].map f32OfRat =
    [0x3F000000#32, 0x3F800000#32, 0xBF800000#32, 0x40000000#32, 0x3E59B3D0#32, 0x3F371759#32, 0x3D93DD98#32] := by
  decide +kernel

/-- P1's first statement, and P3's `SUBSURF`. -/
theorem test_expansion :
    assemble [.surf .s0 (.dec 0) 2 2 (.dec 2)] =
      [.wr 0x08 0x00000000#32, .wr 0x09 0x00020002#32, .wr 0x0A 0x00000002#32] ∧
    assemble [.subsurf .s1 (.dec 1) (.dec 1) (.dec 2) (.dec 2)] =
      [.wr 0x14 1, .wr 0x15 1, .wr 0x16 2, .wr 0x17 2, .wr 0x01 0x00000102#32] ∧
    assemble [.clrill, .command .blendMultiply] = [.wr 0x02 0x00000002#32, .wr 0x01 0x00000130#32] := by
  decide +kernel

/-- R149: the settings that make the presets the identity. -/
theorem test_preset_identities :
    brightnessMatrix 1 = identityMatrix ∧ invertMatrix 0 = identityMatrix ∧ grayscaleMatrix 0 = identityMatrix ∧
    sepiaMatrix 0 = identityMatrix ∧ hueRotateMatrix 1 0 = identityMatrix ∧ saturateMatrix 1 = identityMatrix ∧
    opacityMatrix 1 = identityMatrix ∧ contrastMatrix 1 = identityMatrix := by
  decide +kernel

/-- R148 at 30 degrees (`c` the half root of 3, `n` one half), calculated by hand to 60 digits. -/
theorem test_hueRotate_thirty :
    (hueRotateWords 30).toList =
    [0x3F49BE6E#32, 0xBE85FE9D#32, 0x3EF281C0#32, 0, 0, 0x3DCCDFFC#32, 0x3F841296#32, 0xBE0704B1#32, 0, 0,
      0xBEBADC7C#32, 0x3EE815DE#32, 0x3F69634F#32, 0, 0, 0, 0, 0, 0x3F800000#32, 0] := by
  decide +kernel

/-- R148 at whole and quarter turns, where the elements are exact. -/
theorem test_hueRotate_turns :
    hueRotateWords (-360) = roundedWords identityMatrix ∧
    (hueRotateWords 90).toList.take 8 =
      [0, 0, 0x3F800000#32, 0, 0, 0x3EB645A2#32, 0x3F5AE148#32, 0xBE581062#32] := by
  decide +kernel

/-! ## Witnesses: states and operands that meet the hypotheses of the statements -/

theorem witness_contract_apart : ∀ i ∈ commands, CallerContract i apart := by decide +kernel

theorem witness_contract_aliased : ∀ i ∈ commands, CallerContract i aliased := by decide +kernel

theorem witness_regions_are_not_empty :
    ∀ i ∈ commands, isDataCommand i = true → effSize i apart = (2, 2) ∧ effSize i aliased = (2, 2) := by
  decide +kernel

theorem witness_default_and_custom_fill :
    apart.params.blendFill = .defaults ∧
    (let s : State := { apart with params := { apart.params with blendFill := .custom } }
     s.params.blendFill = .custom ∧ ∀ i ∈ commands, CallerContract i s) := by
  decide +kernel

theorem witness_StepRunsTheDecodedCommand :
    ({ State.reset with pending := [.wr 0x01 0x00000130#32] } : State).pending = .wr 0x01 0x00000130#32 :: [] ∧
    decode 0x00000130#32 = .ok .blendMultiply ∧ decode 0x00000C30#32 = .error .badSelector ∧
    State.reset.pending = [] := by
  decide +kernel

theorem witness_illegal_word_with_ill_clear_and_set :
    wordLegal 0x00000C30#32 = false ∧ illSet State.reset.status = false ∧
    illSet ({ State.reset with status := 2 } : State).status = true ∧ (0x00000002#32).getLsbD 1 = true := by
  decide +kernel

/-- `ILL` set by an illegal word, cleared by a host write, cleared by reset. -/
theorem witness_IllIsStickyAndIgnoredByCommands :
    let ill := fun r : Result => match r with
      | .next t => some (illSet t.status)
      | _ => none
    ill (step { State.reset with pending := [.wr 0x01 0x00000C30#32] }) = some true ∧
    ill (step { State.reset with status := 2, pending := [.wr 0x02 0x00000002#32] }) = some false ∧
    ill (step { State.reset with status := 2, pending := [.reset] }) = some false ∧
    isNext (exec .copy apart) = true := by
  decide +kernel

theorem witness_HostWriteByAccessClass :
    regOfIndex 0x08 = some (.base .s0) ∧ regOfIndex 0x33 = some (.mat 19) ∧ regOfIndex 0x06 = none ∧
    regOfIndex 0x34 = none ∧ regOfIndex 0x3F = none ∧
    ({ State.reset with pending := [.wr 0x08 7] } : State).pending = .wr 0x08 7 :: [] := by
  decide +kernel

theorem witness_HostReadReturnsTheValue :
    ({ State.reset with pending := [.rd 0x02] } : State).pending = .rd 0x02 :: [] ∧ regOfIndex 0x01 = some .cmd ∧
    regOfIndex 0x02 = some .status ∧ regOfIndex 0x13 = none ∧ regOfIndex 0x14 = some .subX := by
  decide +kernel

theorem witness_DifferentIndicesNeverAlias :
    isNext (hostWrite 0x02 2 State.reset) = true ∧ isNext (hostWrite 0x33 2 State.reset) = true ∧
    isNext (hostWrite 0x3F 2 State.reset) = true := by
  decide +kernel

theorem witness_ResetEventKeepsPixelMemory :
    ({ apart with pending := [.reset, .rd 0] } : State).pending = .reset :: [.rd 0] ∧ apart.mem ≠ [] := by
  decide +kernel

theorem witness_MemReadReturnsWhatMemWriteStored : 63 < (small .big).params.memElems ∧ (small .big).params.memElems ≤ 64 := by
  decide +kernel

theorem witness_HostReachesPixelMemoryByElements :
    63 < (small .big).params.memElems ∧ (small .big).params.memElems ≤ 64 ∧
    isNext (hostEvent (.poke 63 5) (small .big)) = true ∧ isNext (hostEvent (.poke 64 5) (small .big)) = false := by
  decide +kernel

/-- Two elements of memory under the two byte orders. -/
def twoElements (o : ByteOrder) : State :=
  let s : State := { small o with params := { (small o).params with memElems := 2 } }
  { paint s 0 [0x11223344#32, 0x55667788#32] with s0 := slotOf 0 1 1 1, s1 := slotOf 0 1 1 1, s2 := slotOf 1 1 1 1 }

theorem witness_ByteOrderIsNotObservable :
    let s := twoElements .little
    let s' := twoElements .big
    s' = { s with mem := s'.mem, params := { s.params with byteOrder := s'.params.byteOrder } } ∧
    (∀ e < s.params.memElems, s'.elem e = s.elem e) ∧ s'.mem ≠ s.mem ∧ isNext (exec .compXor s) = true :=
  ⟨rfl, by decide +kernel, by decide +kernel, by decide +kernel⟩

theorem witness_AddressesDoNotWrap : (65534 : Nat) ≤ 65534 ∧ (slotOf 0 65535 65535 4294967295).surface.width = 65535 := by
  decide +kernel

theorem witness_PremultiplyAndUnpremultiply : (0 : Byte) = 0 ∧ (1 : Byte) ≠ 0 ∧ (255 : Byte) ≠ 0 := by decide

theorem witness_ClampsTruncateIntoAByte :
    fltFinite (.fin true 1 0) = true ∧ fltValue (.fin true 1 0) < 0 ∧ fltFinite (.fin false 511 (-1)) = true ∧
    255 < fltValue (.fin false 511 (-1)) ∧ 0 ≤ fltValue (.fin false 255 0) ∧ fltValue (.fin false 255 0) ≤ 255 ∧
    0 ≤ fltValue (.fin false 0 0) ∧ fltValue (.fin false 0 0) ≤ 255 := by
  refine ⟨rfl, ?_, rfl, ?_, ?_, ?_, ?_, ?_⟩ <;> norm_num [fltValue, signedInt]

/-- Each clause at its boundary: the greatest binary32 number, the least sum that overflows and its negation, the
infinities, a NaN, and bit patterns of each kind. -/
theorem witness_FloatOperationsRoundToNearestEven :
    let big : Flt := .fin false 0xFFFFFF 104
    let half : Flt := .fin false 1 103
    fltFinite big = true ∧ fltFinite half = true ∧ fadd big (.fin false 0 0) = big ∧ fadd big half = .inf false ∧
    fadd (.fin true 0xFFFFFF 104) (.fin true 1 103) = .inf true ∧ fmul big big = .inf false ∧
    fdiv big (.fin false 1 (-149)) = .inf false ∧ f32OfBits 0x7F800000#32 = .inf false ∧
    f32OfBits 0x7F800001#32 = .nan ∧ f32OfBits 0x7F7FFFFF#32 = big ∧ f32OfBits 0x00800000#32 = .fin false 0x800000 (-149) ∧
    f32OfBits 0x007FFFFF#32 = .fin false 0x7FFFFF (-149) := by
  decide +kernel

/-- The sum above is the bound of R12's overflow, and its negation the other. -/
theorem witness_FloatOverflowBound :
    fltValue (.fin false 0xFFFFFF 104) + fltValue (.fin false 1 103) = 2 ^ 128 - 2 ^ 103 ∧
    fltValue (.fin true 0xFFFFFF 104) + fltValue (.fin true 1 103) = -(2 ^ 128 - 2 ^ 103) ∧
    |fltValue (.fin false 0xFFFFFF 104)| < 2 ^ 128 - 2 ^ 103 ∧ fltValue (.fin false 0 0) = 0 := by
  norm_num [fltValue, signedInt]

theorem witness_FloatDivisorSigns :
    fltValue (.fin false 3 0) ≠ 0 ∧ 0 < fltValue (.fin false 3 0) ∧ fltValue (.fin true 3 0) < 0 := by
  norm_num [fltValue, signedInt]

theorem witness_KernelSizeOfAStandardDeviation :
    f32OfBits 0x7FC00000#32 = .nan ∧ f32OfBits 0x7F800000#32 = .inf false ∧ f32OfBits 0xFF800000#32 = .inf true ∧
    fltFinite (f32OfBits 0x7F7FFFFF#32) = true ∧ fltFinite (f32OfBits 0x00000000#32) = true := by
  decide +kernel

theorem witness_KernelCaps : (0 : Int) ≤ 0 ∧ (0 : Int) < 1 ∧ capK 1 1 ≠ 0 ∧ capK 512 512 ≠ 0 ∧ capK 513 65535 ≠ 0 := by
  decide +kernel

/-- The sub-surface of 2 by 2 at (8, 6) of a 10 by 8 parent: its last pixel. -/
theorem witness_SubsurfIsAViewOfItsParent :
    let s : State := { State.reset with s1 := slotOf 100 10 8 16, subX := 8, subY := 6, subW := 5, subH := 5 }
    ∃ t, exec (subsurfOf .s1) s = .next t ∧ 1 < (surf t .s1).width ∧ 1 < (surf t .s1).height ∧
      (surf s .s1).addr 8 6 < 2 ^ 32 := by
  exact ⟨_, rfl, by decide +kernel, by decide +kernel, by decide +kernel⟩

theorem witness_CmxWithIdentityRepremultiplies :
    let s : State := { apart with m := identityMatrix.map f32OfRat }
    CallerContract .cmx s ∧ ∀ n : Fin 20, s.m.get n = if n.val ∈ [0, 6, 12, 18] then 0x3F800000#32 else 0 := by
  decide +kernel

/-- A line in place and a line apart, the kernel at its least and at its cap. -/
theorem witness_BoxLineGivesTheClosedForm :
    (∀ j < 5, j + 59 < (small .little).params.memElems) ∧ (∀ j < 5, ∀ c < 5, j + 59 = c + 59 → j = c) ∧
    (∀ j < 5, ∀ c < 5, j ≠ c + 59) ∧ 1 ≤ 5 ∧ 5 ≤ 5 ∧ 5 ≤ 512 ∧ 512 ≤ 512 := by
  decide +kernel

theorem witness_GblurOfZeroDeviationsIsCopy :
    apart.stdX = 0 ∧ apart.stdY = 0 ∧ ∃ t, exec .copy apart = .next t :=
  ⟨rfl, rfl, exists_next (by decide +kernel)⟩

theorem witness_BoxPassNeverGainsIntensity : 1 ≤ 1 ∧ (fun q : Pixel => q.a.toNat) ∈ channels ∧ channels.length = 4 :=
  ⟨le_rfl, List.mem_cons_self, rfl⟩

/-- Index 2 of a constant line of 5 under kernel 4: the window is 1 to 4. -/
theorem witness_WindowInsideAConstantLineIsFixed :
    4 ≤ 2 + 4 / 2 + 1 ∧ 2 + 4 / 2 < 5 ∧ ∀ j < 5, (fun _ : Nat => (0xFF646464#32 : Word)) j = 0xFF646464#32 := by
  decide

theorem witness_PorterDuffCornerCases :
    (unpack 0xFF102030#32).a = 255 ∧ (unpack 0x00102030#32).a = 0 := by
  decide

theorem witness_ArithPassThroughAndConstants (k1 k2 k3 k4 : Word) :
    CallerContract .arith { apart with k1 := k1, k2 := k2, k3 := k3, k4 := k4 } :=
  (by decide +kernel : CallerContract .arith apart)

theorem witness_CommandsCompleteExactlyInsideMemory :
    (∀ i ∈ commands, InMemory i aliased) ∧ ∀ i ∈ commands, isDataCommand i = true → ¬ InMemory i outside := by
  decide +kernel

/-- Every command completes on the concrete state, so statements about a next state speak of one. -/
theorem witness_every_command_completes : ∀ i ∈ commands, isNext (exec i apart) = true := by decide +kernel

/-- A state that agrees with `apart` on all registers but `STATUS` and `ILLCMD`, which no command reads. -/
theorem witness_CommandsReadAndWriteOnlyTheListedRegisters :
    let s' : State := { apart with status := 2, illcmd := 7 }
    s'.mem = apart.mem ∧ s'.params = apart.params ∧ ∀ r, r ≠ .status → r ≠ .illcmd → regRead s' r = regRead apart r := by
  refine ⟨rfl, rfl, fun r h1 h2 => ?_⟩
  cases r <;> first | rfl | contradiction

theorem witness_EveryStepKeepsTheInvariant :
    Inv { apart with pending := [.poke 63 5] } ∧ isNext (step { apart with pending := [.poke 63 5] }) = true :=
  ⟨⟨by decide +kernel, by decide +kernel, by decide +kernel, by decide +kernel, by decide +kernel,
    test_candidate_tables_rise⟩, by decide +kernel⟩

theorem witness_empty_region : effSize .copy { apart with s2 := slotOf 16 0 2 3 } = (0, 2) := by decide +kernel

theorem witness_SurfAndClrillStatements :
    (65535 : Nat) ≤ 65535 ∧
    (let s : State := { State.reset with pending := expand (.surf .s2 (.hex 5) 65535 65535 (.hex 4)) }
     s.pending = expand (.surf .s2 (.hex (5#32).toNat) 65535 65535 (.hex (4#32).toNat))) ∧
    ({ State.reset with pending := expand .clrill } : State).pending = expand .clrill := by
  decide +kernel

end Sys2Proof.Tests
end

section
/-! SUPPORT. What one rounding does (`00_scope.md` R12, D8, G5): the operations of `Machine/Float.lean` against the
nearest datum, ties to even, in any binary format; and O22, that of binary32. -/

namespace Sys2Proof.Proofs.Float

open Sys2Proof.Machine

/-! ## Signs and values -/

/-- The sign of a datum as a factor. -/
def signRat (neg : Bool) : ℚ := if neg then -1 else 1

@[simp] theorem signRat_false : signRat false = 1 := rfl

@[simp] theorem signRat_true : signRat true = -1 := rfl

@[simp] theorem abs_signRat_mul (neg : Bool) (x : ℚ) : |signRat neg * x| = |x| := by
  cases neg <;> simp

theorem signRat_bne (n n' : Bool) : signRat (n != n') = signRat n * signRat n' := by
  cases n <;> cases n' <;> simp

theorem signRat_div (n n' : Bool) : signRat (n != n') = signRat n / signRat n' := by
  cases n <;> cases n' <;> simp

theorem signedInt_eq (neg : Bool) (sig : ℕ) : (signedInt neg sig : ℚ) = signRat neg * sig := by
  cases neg <;> simp [signedInt]

theorem fltValue_fin (neg : Bool) (sig : ℕ) (ex : ℤ) : fltValue (.fin neg sig ex) = signRat neg * (sig * 2 ^ ex) := by
  rw [fltValue, signedInt_eq, mul_assoc]

@[simp] theorem fltValue_zero (neg : Bool) (ex : ℤ) : fltValue (.fin neg 0 ex) = 0 := by
  simp [fltValue_fin]

theorem abs_fltValue_fin (neg : Bool) (sig : ℕ) (ex : ℤ) : |fltValue (.fin neg sig ex)| = sig * 2 ^ ex := by
  rw [fltValue_fin, abs_signRat_mul, abs_of_nonneg (by positivity)]

theorem fltValue_fin_eq_zero {neg : Bool} {sig : ℕ} {ex : ℤ} : fltValue (.fin neg sig ex) = 0 ↔ sig = 0 := by
  cases neg <;> simp [fltValue_fin, zpow_ne_zero]

theorem fltValue_fin_pos {neg : Bool} {sig : ℕ} {ex : ℤ} :
    0 < fltValue (.fin neg sig ex) ↔ neg = false ∧ sig ≠ 0 := by
  have hpow : (0 : ℚ) < 2 ^ ex := by positivity
  cases neg with
  | false => simp [fltValue_fin, hpow, Nat.pos_iff_ne_zero]
  | true => simpa [fltValue_fin] using (by positivity : (0 : ℚ) ≤ sig * 2 ^ ex)

theorem fltValue_fin_neg {neg : Bool} {sig : ℕ} {ex : ℤ} :
    fltValue (.fin neg sig ex) < 0 ↔ neg = true ∧ sig ≠ 0 := by
  have hpow : (0 : ℚ) < 2 ^ ex := by positivity
  cases neg with
  | false => simpa [fltValue_fin] using (by positivity : (0 : ℚ) ≤ sig * 2 ^ ex)
  | true => simp [fltValue_fin, hpow, Nat.pos_iff_ne_zero]

/-- A negation of both numbers keeps their distance. -/
theorem abs_signRat_mul_sub (neg : Bool) (x y : ℚ) : |signRat neg * x - signRat neg * y| = |x - y| := by
  rw [← mul_sub, abs_signRat_mul]

theorem signRat_decide_mul_natAbs (v : ℤ) : signRat (decide (v < 0)) * (v.natAbs : ℚ) = v := by
  rw [Nat.cast_natAbs, Int.cast_abs]
  by_cases hv : v < 0
  · simp [hv, abs_of_neg (Int.cast_lt_zero.mpr hv)]
  · simp [hv, abs_of_nonneg (Int.cast_nonneg (not_lt.mp hv))]

/-! ## Scaling by powers of two -/

/-- A finite number over a coarser unit is an integer over a finer one. -/
theorem mul_toNat_sub_zpow (sig : ℕ) {t ex : ℤ} (h : t ≤ ex) :
    ((sig * 2 ^ (ex - t).toNat : ℕ) : ℚ) * 2 ^ t = sig * 2 ^ ex := by
  have hex : (2 : ℚ) ^ ex = 2 ^ (ex - t).toNat * 2 ^ t := by
    rw [← zpow_natCast, ← zpow_add₀ two_ne_zero]
    congr 1
    omega
  rw [hex]
  push_cast
  ring

theorem zpow_mono {a b : ℤ} (h : a ≤ b) : (2 : ℚ) ^ a ≤ 2 ^ b := zpow_le_zpow_right₀ one_le_two h

theorem two_mul_zpow_le {a b : ℤ} (h : a < b) : 2 * (2 : ℚ) ^ a ≤ 2 ^ b :=
  calc 2 * (2 : ℚ) ^ a = 2 ^ (a + 1) := by rw [zpow_add_one₀ two_ne_zero, mul_comm]
    _ ≤ 2 ^ b := zpow_mono h

/-! ## Formats -/

/-- At least two significand bits, and a range of exponents that is not empty. -/
def Proper (F : FloatFormat) : Prop := 2 ≤ F.prec ∧ F.emin ≤ F.emax

theorem binary32_proper : Proper binary32 := ⟨by decide, by decide⟩

/-- The least magnitude that rounds to an infinity: half a unit above the greatest datum. -/
def overflowBound (F : FloatFormat) : ℚ := (2 ^ F.prec - 1 / 2) * 2 ^ F.emax

theorem overflowBound_binary32 : overflowBound binary32 = 2 ^ 128 - 2 ^ 103 := by
  norm_num [overflowBound, binary32]

theorem Proper.two_pow_prec {F : FloatFormat} (hF : Proper F) : (2 : ℕ) ^ F.prec = 2 * 2 ^ (F.prec - 1) := by
  rw [← pow_succ', Nat.sub_add_cancel (by have := hF.1; omega)]

theorem Proper.two_pow_prec_rat {F : FloatFormat} (hF : Proper F) : (2 : ℚ) ^ F.prec = 2 * 2 ^ (F.prec - 1) := by
  exact_mod_cast hF.two_pow_prec

theorem Proper.even_two_pow {F : FloatFormat} (hF : Proper F) : 2 ^ (F.prec - 1) % 2 = 0 := by
  rw [show F.prec - 1 = (F.prec - 2) + 1 by have := hF.1; omega, pow_succ]
  omega

/-! ## The nearest datum -/

/-- `q` units of `2^t` are the magnitude `x` rounded to nearest even, and `2^t` is the unit in the last place there. -/
structure RoundedAt (F : FloatFormat) (x : ℚ) (q : ℕ) (t : ℤ) : Prop where
  emin_le : F.emin ≤ t
  normal : F.emin < t → 2 ^ (F.prec - 1) * 2 ^ t ≤ x
  lt_top : x < 2 ^ F.prec * 2 ^ t
  near : |x - q * 2 ^ t| ≤ 2 ^ t / 2
  tie : |x - q * 2 ^ t| = 2 ^ t / 2 → q % 2 = 0

/-- Among the integer multiples of a unit, one within half a unit is nearest, and only at half a unit is another as
near. -/
theorem nearest_multiple {x u : ℚ} {v z : ℤ} (hu : 0 < u) (hv : |x - v * u| ≤ u / 2) :
    |x - v * u| ≤ |x - z * u| ∧ (|x - v * u| = |x - z * u| → z ≠ v → |x - v * u| = u / 2) := by
  by_cases hz : z = v
  · simp [hz]
  · have hone : (1 : ℚ) ≤ |((z - v : ℤ) : ℚ)| := by exact_mod_cast Int.one_le_abs (sub_ne_zero.mpr hz)
    have hfar : u ≤ |z * u - v * u| := by
      rw [← sub_mul, abs_mul, abs_of_pos hu]
      push_cast at hone
      nlinarith
    have htri : |z * u - v * u| ≤ |x - v * u| + |x - z * u| := by
      rw [show (z * u - v * u : ℚ) = (x - v * u) - (x - z * u) by ring]
      exact abs_sub _ _
    exact ⟨by linarith, fun heq _ => by linarith⟩

/-- A datum whose unit is at least `2^t` is an integer multiple of `2^t`. -/
theorem fltValue_eq_multiple (neg : Bool) (sig : ℕ) {t ex : ℤ} (h : t ≤ ex) :
    ∃ z : ℤ, fltValue (.fin neg sig ex) = z * 2 ^ t :=
  ⟨signedInt neg (sig * 2 ^ (ex - t).toNat), by rw [signedInt_eq, mul_assoc, mul_toNat_sub_zpow sig h, fltValue_fin]⟩

/-- A datum whose unit is below `2^t` is smaller than every normal number of unit `2^t`. -/
theorem abs_fltValue_lt_of_exponent_lt {F : FloatFormat} (hF : Proper F) {neg : Bool} {sig : ℕ} {t ex : ℤ}
    (hsig : sig < 2 ^ F.prec) (h : ex < t) : |fltValue (.fin neg sig ex)| < 2 ^ (F.prec - 1) * 2 ^ t := by
  have hcast : (sig : ℚ) < 2 ^ F.prec := by exact_mod_cast hsig
  have hpow : (0 : ℚ) < 2 ^ ex := by positivity
  calc |fltValue (.fin neg sig ex)| = sig * 2 ^ ex := abs_fltValue_fin neg sig ex
    _ < 2 ^ F.prec * 2 ^ ex := by gcongr
    _ = 2 ^ (F.prec - 1) * (2 * 2 ^ ex) := by rw [hF.two_pow_prec_rat]; ring
    _ ≤ 2 ^ (F.prec - 1) * 2 ^ t := by gcongr; exact two_mul_zpow_le h

/-- A number of magnitude at least `b` is strictly nearer to `b`, with the number's sign, than to anything smaller. -/
theorem exists_sign_nearer {x d b : ℚ} (hb : b ≤ |x|) (hd : |d| < b) : ∃ z : ℤ, |x - z * b| < |x - d| := by
  have hdx := abs_sub_abs_le_abs_sub x d
  rcases le_total 0 x with hx | hx
  · rw [abs_of_nonneg hx] at hb hdx
    exact ⟨1, by simp only [Int.cast_one, one_mul]; rw [abs_of_nonneg (by linarith)]; linarith⟩
  · rw [abs_of_nonpos hx] at hb hdx
    exact ⟨-1, by
      simp only [Int.cast_neg, Int.cast_one, neg_one_mul, sub_neg_eq_add]
      rw [abs_of_nonpos (by linarith)]; linarith⟩

/-- A datum that is an integer multiple `v` of the unit at `x`, within half a unit and even at a tie, is the nearest
one: the data of smaller units lie below the normal range of that unit. -/
theorem nearestEven_of_unit {F : FloatFormat} (hF : Proper F) {x : ℚ} {r : Flt} {v : ℤ} {t : ℤ} (hr : fltDatum F r)
    (hval : fltValue r = v * 2 ^ t) (hnormal : F.emin < t → 2 ^ (F.prec - 1) * 2 ^ t ≤ |x|)
    (hnear : |x - v * 2 ^ t| ≤ 2 ^ t / 2) (htie : |x - v * 2 ^ t| = 2 ^ t / 2 → fltEven r) : NearestEven F x r := by
  have hu : (0 : ℚ) < 2 ^ t := by positivity
  refine ⟨hr, fun d hd => ?_⟩
  rw [hval]
  cases d with
  | nan => exact hd.elim
  | inf _ => exact hd.elim
  | fin neg sig ex =>
    obtain ⟨hsig, hlo, -⟩ := hd
    rcases le_or_gt t ex with hex | hex
    · obtain ⟨z, hz⟩ := fltValue_eq_multiple neg sig hex
      obtain ⟨hle, heq⟩ := nearest_multiple (z := z) hu hnear
      rw [hz]
      exact ⟨hle, fun h hne => htie (heq h (by rintro rfl; exact hne rfl))⟩
    · obtain ⟨z, hz⟩ := exists_sign_nearer (hnormal (by omega))
        (abs_fltValue_lt_of_exponent_lt (neg := neg) hF hsig hex)
      have hle := (nearest_multiple (z := z * 2 ^ (F.prec - 1)) hu hnear).1
      push_cast at hle
      rw [mul_assoc] at hle
      exact ⟨(hle.trans_lt hz).le, fun h => absurd h (hle.trans_lt hz).ne⟩

/-- `r` is `x`, negated if `neg`, rounded once in the format: the nearest datum below the overflow bound, the infinity
from there on. -/
def RoundsMagnitude (F : FloatFormat) (neg : Bool) (x : ℚ) (r : Flt) : Prop :=
  (x < overflowBound F → NearestEven F (signRat neg * x) r) ∧ (overflowBound F ≤ x → r = .inf neg)

theorem RoundsMagnitude.roundsOnce {neg : Bool} {x : ℚ} {r : Flt} (h : RoundsMagnitude binary32 neg x r)
    (hx : 0 ≤ x) : RoundsOnce (signRat neg * x) r := by
  obtain ⟨hnear, hinf⟩ := h
  rw [overflowBound_binary32] at hnear hinf
  refine ⟨fun hlt => hnear ?_, fun hle => ?_, fun hle => ?_⟩
  · rwa [abs_signRat_mul, abs_of_nonneg hx] at hlt
  · cases neg with
    | false => exact hinf (by simpa using hle)
    | true => norm_num at hle; linarith
  · cases neg with
    | false => norm_num at hle; linarith
    | true => exact hinf (by simp only [signRat_true] at hle; linarith)

/-! ## Packing a rounded significand -/

section
variable {F : FloatFormat} {x : ℚ} {q : ℕ} {t : ℤ}

theorem RoundedAt.le_two_pow (h : RoundedAt F x q t) : q ≤ 2 ^ F.prec := by
  have hu : (0 : ℚ) < 2 ^ t := by positivity
  obtain ⟨hlo, -⟩ := abs_le.mp h.near
  have hlt := h.lt_top
  have : (q : ℚ) < (2 ^ F.prec + 1 : ℕ) := by
    push_cast
    nlinarith
  exact Nat.lt_succ_iff.mp (by exact_mod_cast this)

/-- A magnitude overflows only at the last unit of the format or above it. -/
theorem RoundedAt.emax_le (h : RoundedAt F x q t) (hx : overflowBound F ≤ x) : F.emax ≤ t := by
  by_contra hlt
  have hstep := two_mul_zpow_le (not_le.mp hlt)
  have hone : (1 : ℚ) ≤ 2 ^ F.prec := one_le_pow₀ one_le_two
  have hu : (0 : ℚ) < 2 ^ t := by positivity
  have := h.lt_top
  unfold overflowBound at hx
  nlinarith

/-- A significand that carries into an exponent above the format's is of a magnitude that overflows. -/
theorem RoundedAt.overflow_of_carry (h : RoundedAt F x q t) (hq : q = 2 ^ F.prec) (ht : F.emax ≤ t) :
    overflowBound F ≤ x := by
  obtain ⟨hlo, -⟩ := abs_le.mp h.near
  have hone : (1 : ℚ) ≤ 2 ^ F.prec := one_le_pow₀ one_le_two
  have := zpow_mono ht
  subst hq
  push_cast at hlo
  unfold overflowBound
  calc (2 ^ F.prec - 1 / 2) * (2 : ℚ) ^ F.emax ≤ (2 ^ F.prec - 1 / 2) * 2 ^ t := by
        gcongr
        linarith
    _ ≤ x := by linarith

/-- A unit above the format's last one is of a magnitude that overflows. -/
theorem RoundedAt.overflow_of_emax_lt (hF : Proper F) (h : RoundedAt F x q t) (ht : F.emax < t) :
    overflowBound F ≤ x := by
  have hnormal := h.normal (hF.2.trans_lt ht)
  have hstep := two_mul_zpow_le ht
  have hu : (0 : ℚ) < 2 ^ F.emax := by positivity
  unfold overflowBound
  calc (2 ^ F.prec - 1 / 2) * (2 : ℚ) ^ F.emax ≤ 2 ^ F.prec * 2 ^ F.emax := by
        gcongr
        linarith
    _ = 2 ^ (F.prec - 1) * (2 * 2 ^ F.emax) := by rw [hF.two_pow_prec_rat]; ring
    _ ≤ 2 ^ (F.prec - 1) * 2 ^ t := by gcongr
    _ ≤ x := hnormal

/-- At the last unit the greatest significand is odd, so a magnitude half a unit above it does not round to it. -/
theorem RoundedAt.carry_of_overflow (hF : Proper F) (h : RoundedAt F x q F.emax) (hx : overflowBound F ≤ x) :
    q = 2 ^ F.prec := by
  by_contra hne
  have hu : (0 : ℚ) < 2 ^ F.emax := by positivity
  have hqlt : q + 1 ≤ 2 ^ F.prec := lt_of_le_of_ne h.le_two_pow hne
  have hcast : (q : ℚ) + 1 ≤ 2 ^ F.prec := by exact_mod_cast hqlt
  obtain ⟨-, hhi⟩ := abs_le.mp h.near
  unfold overflowBound at hx
  have hfar : 2 ^ F.emax / 2 ≤ x - q * 2 ^ F.emax := by nlinarith
  have hge : (2 : ℚ) ^ F.prec ≤ q + 1 := by nlinarith
  have hmax : q + 1 = 2 ^ F.prec := le_antisymm hqlt (by exact_mod_cast hge)
  have heven := h.tie (le_antisymm h.near (hfar.trans (le_abs_self _)))
  rw [hF.two_pow_prec] at hmax
  omega

/-- Packing gives the nearest datum, or the infinity where the magnitude overflows. -/
theorem packDatum_roundsMagnitude (hF : Proper F) (neg : Bool) (hx : 0 ≤ x) (h : RoundedAt F x q t) :
    RoundsMagnitude F neg x (packDatum F neg q t) := by
  have hval : ((signedInt neg q : ℤ) : ℚ) * 2 ^ t = signRat neg * (q * 2 ^ t) := by rw [signedInt_eq, mul_assoc]
  have nearest : ∀ r, fltDatum F r → fltValue r = signRat neg * (q * 2 ^ t) → (q % 2 = 0 → fltEven r) →
      NearestEven F (signRat neg * x) r := fun r hr hr' heven => by
    refine nearestEven_of_unit hF (v := signedInt neg q) hr (hr'.trans hval.symm) (fun ht => ?_) ?_ fun htie => ?_
    · rw [abs_signRat_mul, abs_of_nonneg hx]
      exact h.normal ht
    · rw [hval, abs_signRat_mul_sub]
      exact h.near
    · rw [hval, abs_signRat_mul_sub] at htie
      exact heven (h.tie htie)
  have hmin := h.emin_le
  refine ⟨fun hlt => ?_, fun hge => ?_⟩
  · unfold packDatum
    split
    · rename_i hq
      have ht : ¬ F.emax < t + 1 := fun ht => absurd (h.overflow_of_carry hq (by omega)) (not_le.mpr hlt)
      rw [if_neg ht]
      refine nearest _ ⟨?_, by omega, by omega⟩ ?_ fun _ => hF.even_two_pow
      · exact Nat.pow_lt_pow_right one_lt_two (by have := hF.1; omega)
      · rw [fltValue_fin, hq, hF.two_pow_prec, zpow_add_one₀ two_ne_zero]
        push_cast
        ring
    · rename_i hq
      have ht : ¬ F.emax < t := fun ht => absurd (h.overflow_of_emax_lt hF ht) (not_le.mpr hlt)
      rw [if_neg ht]
      exact nearest _ ⟨lt_of_le_of_ne h.le_two_pow hq, hmin, not_lt.mp ht⟩ (fltValue_fin ..) id
  · have hmax := h.emax_le hge
    unfold packDatum
    split
    · rw [if_pos (by omega)]
    · rename_i hq
      have ht : F.emax < t := lt_of_le_of_ne hmax fun ht => hq (by subst ht; exact h.carry_of_overflow hF hge)
      rw [if_pos ht]

end

/-! ## Rounding to an integer number of units -/

/-- What the integer `sig` says of a magnitude `x`: its value; or, odd and with `p + 2` bits, that `x` lies strictly
between its even neighbours (a sticky bit). -/
def StandsFor (p : ℕ) (x : ℚ) (sig : ℕ) : Prop := x = sig ∨ (sig % 2 = 1 ∧ 2 ^ (p + 1) ≤ sig ∧ |x - sig| < 1)

theorem standsFor_self (p sig : ℕ) : StandsFor p sig sig := .inl rfl

theorem StandsFor.eq_zero {p : ℕ} {x : ℚ} (h : StandsFor p x 0) : x = 0 := by
  rcases h with h | ⟨hodd, -, -⟩
  · simpa using h
  · simp at hodd

/-- A magnitude lies between the same powers of two as the integer that stands for it. -/
theorem StandsFor.log2_bounds {p : ℕ} {x : ℚ} {sig : ℕ} (h : StandsFor p x sig) (h0 : sig ≠ 0) :
    2 ^ sig.log2 ≤ x ∧ x < 2 ^ (sig.log2 + 1) := by
  have hlo : 2 ^ sig.log2 ≤ sig := Nat.log2_self_le h0
  have hhi : sig < 2 ^ (sig.log2 + 1) := Nat.lt_log2_self
  rcases h with rfl | ⟨hodd, hbits, hx⟩
  · exact ⟨by exact_mod_cast hlo, by exact_mod_cast hhi⟩
  · have hlog : p + 1 ≤ sig.log2 := (Nat.le_log2 h0).mpr hbits
    have hpow : 2 ^ sig.log2 = 2 * 2 ^ (sig.log2 - 1) := by rw [← pow_succ', Nat.sub_add_cancel (by omega)]
    rw [pow_succ] at hhi
    have hlo' : ((2 ^ sig.log2 + 1 : ℕ) : ℚ) ≤ sig := by exact_mod_cast (by omega : 2 ^ sig.log2 + 1 ≤ sig)
    have hhi' : ((sig + 1 : ℕ) : ℚ) ≤ (2 ^ sig.log2 * 2 : ℕ) := by exact_mod_cast (by omega : sig + 1 ≤ 2 ^ sig.log2 * 2)
    push_cast at hlo' hhi'
    obtain ⟨h1, h2⟩ := abs_lt.mp hx
    rw [pow_succ]
    exact ⟨by linarith, by linarith⟩

/-- The three branches of `shiftNearest`, by twice the remainder. -/
theorem shiftNearest_cases (sig n : ℕ) :
    ∃ q r, sig = q * 2 ^ n + r ∧ r < 2 ^ n ∧
      ((2 * r < 2 ^ n ∧ shiftNearest sig n = q) ∨ (2 ^ n < 2 * r ∧ shiftNearest sig n = q + 1) ∨
        (2 * r = 2 ^ n ∧ shiftNearest sig n = q + q % 2)) := by
  refine ⟨sig / 2 ^ n, sig % 2 ^ n, (Nat.div_add_mod' _ _).symm, Nat.mod_lt _ (by positivity), ?_⟩
  unfold shiftNearest
  grind

/-- `shiftNearest` of an integer rounds it to nearest even. -/
theorem shiftNearest_natCast_near (sig n : ℕ) :
    |(sig : ℚ) - shiftNearest sig n * 2 ^ n| ≤ 2 ^ n / 2 ∧
      (|(sig : ℚ) - shiftNearest sig n * 2 ^ n| = 2 ^ n / 2 → shiftNearest sig n % 2 = 0) := by
  obtain ⟨q, r, hsig, hr, hcase⟩ := shiftNearest_cases sig n
  have hsigQ : (sig : ℚ) = q * 2 ^ n + r := by exact_mod_cast hsig
  have hrQ : (r : ℚ) < 2 ^ n := by exact_mod_cast hr
  have hr0 : (0 : ℚ) ≤ r := r.cast_nonneg
  rcases hcase with ⟨hlt, heq⟩ | ⟨hlt, heq⟩ | ⟨hmid, heq⟩
  · have hltQ : 2 * (r : ℚ) < 2 ^ n := by exact_mod_cast hlt
    have habs : |(sig : ℚ) - q * 2 ^ n| = r := by rw [hsigQ, add_sub_cancel_left, abs_of_nonneg hr0]
    rw [heq, habs]
    exact ⟨by linarith, fun h => by linarith⟩
  · have hltQ : 2 ^ n < 2 * (r : ℚ) := by exact_mod_cast hlt
    have habs : |(sig : ℚ) - (q + 1 : ℕ) * 2 ^ n| = 2 ^ n - r := by
      rw [hsigQ, abs_of_nonpos (by push_cast; linarith)]
      push_cast
      ring
    rw [heq, habs]
    exact ⟨by linarith, fun h => by linarith⟩
  · have hmidQ : 2 * (r : ℚ) = 2 ^ n := by exact_mod_cast hmid
    refine ⟨le_of_eq ?_, fun _ => by omega⟩
    rw [heq, hsigQ]
    rcases Nat.mod_two_eq_zero_or_one q with hq | hq
    · rw [hq, add_zero, add_sub_cancel_left, abs_of_nonneg hr0]
      linarith
    · rw [hq, abs_of_nonpos (by push_cast; linarith)]
      push_cast
      linarith

/-- With two bits or more shifted out, an odd integer is not at a tie, and neither is anything between its even
neighbours. -/
theorem shiftNearest_near_of_sticky {x : ℚ} {sig n : ℕ} (hodd : sig % 2 = 1) (hn : 2 ≤ n) (hx : |x - sig| < 1) :
    |x - shiftNearest sig n * 2 ^ n| < 2 ^ n / 2 := by
  obtain ⟨q, r, hsig, hr, hcase⟩ := shiftNearest_cases sig n
  have hfour : 2 ^ n = 4 * 2 ^ (n - 2) := by rw [← Nat.sub_add_cancel hn, pow_add]; simp [mul_comm]
  have hmod : r % 2 = 1 := by
    have hq : q * 2 ^ n = 2 * (q * (2 * 2 ^ (n - 2))) := by rw [hfour]; ring
    omega
  have hsigQ : (sig : ℚ) = q * 2 ^ n + r := by exact_mod_cast hsig
  obtain ⟨hx1, hx2⟩ := abs_lt.mp hx
  rcases hcase with ⟨hlt, heq⟩ | ⟨hlt, heq⟩ | ⟨hmid, -⟩
  · have hlow : ((2 * r + 2 : ℕ) : ℚ) ≤ (2 ^ n : ℕ) := by exact_mod_cast (by omega : 2 * r + 2 ≤ 2 ^ n)
    push_cast at hlow
    rw [heq, abs_lt]
    have : (1 : ℚ) ≤ r := by exact_mod_cast (by omega : 1 ≤ r)
    exact ⟨by linarith, by linarith⟩
  · have hhigh : ((2 ^ n + 2 : ℕ) : ℚ) ≤ (2 * r : ℕ) := by exact_mod_cast (by omega : 2 ^ n + 2 ≤ 2 * r)
    have htop : ((r + 1 : ℕ) : ℚ) ≤ (2 ^ n : ℕ) := by exact_mod_cast (by omega : r + 1 ≤ 2 ^ n)
    push_cast at hhigh htop
    rw [heq, abs_lt]
    push_cast
    exact ⟨by linarith, by linarith⟩
  · omega

/-- Rounding the integer that stands for a magnitude rounds the magnitude. -/
theorem StandsFor.shiftNearest_near {p : ℕ} {x : ℚ} {sig n : ℕ} (h : StandsFor p x sig)
    (hn : 2 ^ (p + 1) ≤ sig → 2 ≤ n) :
    |x - shiftNearest sig n * 2 ^ n| ≤ 2 ^ n / 2 ∧
      (|x - shiftNearest sig n * 2 ^ n| = 2 ^ n / 2 → shiftNearest sig n % 2 = 0) := by
  rcases h with rfl | ⟨hodd, hbits, hx⟩
  · exact shiftNearest_natCast_near sig n
  · have hlt := shiftNearest_near_of_sticky hodd (hn hbits) hx
    exact ⟨hlt.le, fun heq => absurd heq hlt.ne⟩

/-! ## `roundTo` and `roundQuotient` -/

section
variable {F : FloatFormat} {x : ℚ} {sig : ℕ}

/-- `unitOf` is the unit in the last place at the magnitude `x * 2^ex`. -/
theorem StandsFor.unitOf_spec (hF : Proper F) (h : StandsFor F.prec x sig) (h0 : sig ≠ 0) (ex : ℤ) :
    (F.emin < unitOf F sig ex → 2 ^ (F.prec - 1) * 2 ^ unitOf F sig ex ≤ x * 2 ^ ex) ∧
      x * 2 ^ ex < 2 ^ F.prec * 2 ^ unitOf F sig ex := by
  obtain ⟨hlo, hhi⟩ := h.log2_bounds h0
  have hu : (0 : ℚ) < 2 ^ ex := by positivity
  have hprec := hF.1
  refine ⟨fun ht => ?_, ?_⟩
  · have hunit : unitOf F sig ex = ex + (sig.log2 + 1 : ℕ) - F.prec := by
      unfold unitOf at ht ⊢
      omega
    calc (2 : ℚ) ^ (F.prec - 1) * 2 ^ unitOf F sig ex = 2 ^ sig.log2 * 2 ^ ex := by
          rw [hunit, ← zpow_natCast, ← zpow_natCast, ← zpow_add₀ two_ne_zero, ← zpow_add₀ two_ne_zero]
          congr 1
          omega
      _ ≤ x * 2 ^ ex := by gcongr
  · calc x * 2 ^ ex < 2 ^ (sig.log2 + 1) * 2 ^ ex := by gcongr
      _ = 2 ^ ((sig.log2 + 1 : ℕ) + ex) := by rw [zpow_add₀ two_ne_zero, zpow_natCast]
      _ ≤ 2 ^ (F.prec + unitOf F sig ex) := zpow_mono (by unfold unitOf; omega)
      _ = 2 ^ F.prec * 2 ^ unitOf F sig ex := by rw [zpow_add₀ two_ne_zero, zpow_natCast]

/-- The significand and unit that `roundTo` packs are the magnitude rounded to nearest even. -/
theorem StandsFor.roundedAt (hF : Proper F) (h : StandsFor F.prec x sig) (h0 : sig ≠ 0) (ex : ℤ) :
    RoundedAt F (x * 2 ^ ex)
      (if unitOf F sig ex ≤ ex then sig * 2 ^ (ex - unitOf F sig ex).toNat
        else shiftNearest sig (unitOf F sig ex - ex).toNat)
      (unitOf F sig ex) := by
  obtain ⟨hnormal, htop⟩ := h.unitOf_spec hF h0 ex
  have hwide : 2 ^ (F.prec + 1) ≤ sig → ex + 2 ≤ unitOf F sig ex := fun hbits => by
    have := (Nat.le_log2 h0).mpr hbits
    unfold unitOf
    omega
  have hnear : ∀ q : ℕ, (|x * 2 ^ ex - q * 2 ^ unitOf F sig ex| ≤ 2 ^ unitOf F sig ex / 2 ∧
      (|x * 2 ^ ex - q * 2 ^ unitOf F sig ex| = 2 ^ unitOf F sig ex / 2 → q % 2 = 0)) →
      RoundedAt F (x * 2 ^ ex) q (unitOf F sig ex) := fun q ⟨hle, htie⟩ =>
    ⟨le_max_right _ _, hnormal, htop, hle, htie⟩
  refine hnear _ ?_
  split
  · rename_i ht
    have hx : x = sig := h.resolve_right fun ⟨_, hbits, _⟩ => by have := hwide hbits; omega
    have hpos : (0 : ℚ) < 2 ^ unitOf F sig ex := by positivity
    rw [mul_toNat_sub_zpow sig ht, hx, sub_self, abs_zero]
    exact ⟨by linarith, fun heq => by linarith⟩
  · rename_i ht
    obtain ⟨n, hn⟩ : ∃ n : ℕ, unitOf F sig ex = n + ex := ⟨(unitOf F sig ex - ex).toNat, by omega⟩
    have hu : (0 : ℚ) < 2 ^ ex := by positivity
    obtain ⟨hle, htie⟩ := h.shiftNearest_near (n := n) fun hbits => by have := hwide hbits; omega
    rw [hn, add_sub_cancel_right, Int.toNat_natCast, zpow_add₀ two_ne_zero, zpow_natCast, ← mul_assoc, ← sub_mul,
      abs_mul, abs_of_pos hu, mul_div_right_comm]
    exact ⟨by gcongr, fun heq => htie (mul_right_cancel₀ hu.ne' heq)⟩

/-- A zero of either sign is zero rounded. -/
theorem zero_roundsMagnitude (hF : Proper F) (neg neg' : Bool) : RoundsMagnitude F neg 0 (.fin neg' 0 F.emin) := by
  have hbound : 0 < overflowBound F := by
    have : (1 : ℚ) ≤ 2 ^ F.prec := one_le_pow₀ one_le_two
    exact mul_pos (by linarith) (by positivity)
  refine ⟨fun _ => ?_, fun h => absurd h (not_le.mpr hbound)⟩
  exact nearestEven_of_unit hF (v := 0) (t := F.emin) ⟨by positivity, le_rfl, hF.2⟩ (by simp)
    (fun h => absurd h (lt_irrefl _)) (by simpa using (by positivity : (0 : ℚ) ≤ 2 ^ F.emin / 2)) fun _ => rfl

/-- `roundTo` rounds once, and a sticky bit serves for the bits below it. -/
theorem StandsFor.roundTo_roundsMagnitude (hF : Proper F) (h : StandsFor F.prec x sig) (neg : Bool) (ex : ℤ) :
    RoundsMagnitude F neg (x * 2 ^ ex) (roundTo F neg sig ex) := by
  unfold roundTo
  split
  · rename_i h0
    subst h0
    rw [h.eq_zero, zero_mul]
    exact zero_roundsMagnitude hF neg neg
  · rename_i h0
    have hx : 0 ≤ x := (by positivity : (0 : ℚ) ≤ 2 ^ sig.log2).trans (h.log2_bounds h0).1
    exact packDatum_roundsMagnitude hF neg (by positivity) (h.roundedAt hF h0 ex)

theorem roundTo_roundsMagnitude (hF : Proper F) (neg : Bool) (sig : ℕ) (ex : ℤ) :
    RoundsMagnitude F neg (sig * 2 ^ ex) (roundTo F neg sig ex) :=
  (standsFor_self F.prec sig).roundTo_roundsMagnitude hF neg ex

/-- The quotient bits of `roundQuotient` with their sticky bit stand for the exact quotient. -/
theorem standsFor_quotient (p num den : ℕ) (hden : den ≠ 0) :
    let k := p + 2 + den.log2
    StandsFor p ((num : ℚ) / den * 2 ^ (k + 1))
      (2 * (num * 2 ^ k / den) + if num * 2 ^ k % den = 0 then 0 else 1) := by
  intro k
  have hdenQ : (0 : ℚ) < den := by exact_mod_cast Nat.pos_of_ne_zero hden
  have hdivmod : num * 2 ^ k = den * (num * 2 ^ k / den) + num * 2 ^ k % den := (Nat.div_add_mod _ _).symm
  have hrlt : num * 2 ^ k % den < den := Nat.mod_lt _ (Nat.pos_of_ne_zero hden)
  generalize hq : num * 2 ^ k / den = q at *
  generalize num * 2 ^ k % den = r at *
  have hx : (num : ℚ) / den * 2 ^ (k + 1) = 2 * q + 2 * (r / den) := by
    have : (num : ℚ) * 2 ^ k = den * q + r := by exact_mod_cast hdivmod
    field_simp
    rw [pow_succ]
    linarith
  split
  · rename_i hr
    left
    simp [hx, hr]
  · rename_i hr
    have hlow : (0 : ℚ) < r / den := div_pos (by exact_mod_cast Nat.pos_of_ne_zero hr) hdenQ
    have hhigh : (r : ℚ) / den < 1 := (div_lt_one hdenQ).mpr (by exact_mod_cast hrlt)
    refine .inr ⟨by omega, ?_, ?_⟩
    · have hnum : 1 ≤ num := Nat.pos_of_ne_zero fun h0 => by subst h0; simp at hdivmod; omega
      have hfit : den * 2 ^ (p + 1) ≤ num * 2 ^ k := by
        calc den * 2 ^ (p + 1) ≤ 2 ^ (den.log2 + 1) * 2 ^ (p + 1) := by gcongr; exact Nat.lt_log2_self.le
          _ = 2 ^ k := by rw [← pow_add]; congr 1; omega
          _ ≤ num * 2 ^ k := Nat.le_mul_of_pos_left _ hnum
      have : 2 ^ (p + 1) ≤ q := by
        rw [← hq]
        exact (Nat.le_div_iff_mul_le (Nat.pos_of_ne_zero hden)).mpr (by rwa [mul_comm])
      omega
    · rw [hx, abs_lt]
      push_cast
      exact ⟨by linarith, by linarith⟩

theorem roundQuotient_roundsMagnitude (hF : Proper F) (neg : Bool) (num den : ℕ) (hden : den ≠ 0) (ex : ℤ) :
    RoundsMagnitude F neg ((num : ℚ) / den * 2 ^ ex) (roundQuotient F neg num den ex) := by
  have h := (standsFor_quotient F.prec num den hden).roundTo_roundsMagnitude hF neg
    (ex - (F.prec + 2 + den.log2 : ℕ) - 1)
  have hscale : (2 : ℚ) ^ (F.prec + 2 + den.log2 + 1) * 2 ^ (ex - (F.prec + 2 + den.log2 : ℕ) - 1) = 2 ^ ex := by
    rw [← zpow_natCast, ← zpow_add₀ two_ne_zero]
    congr 1
    push_cast
    ring
  rwa [mul_assoc, hscale] at h

end

/-! ## The operations on finite binary32 operands -/

theorem fadd_fin_roundsOnce (n n' : Bool) (m m' : ℕ) (e e' : ℤ) :
    RoundsOnce (fltValue (.fin n m e) + fltValue (.fin n' m' e')) (fadd (.fin n m e) (.fin n' m' e')) := by
  have hsum : fltValue (.fin n m e) + fltValue (.fin n' m' e') =
      ((signedInt n (m * 2 ^ (e - min e e').toNat) + signedInt n' (m' * 2 ^ (e' - min e e').toNat) : ℤ) : ℚ) *
        2 ^ min e e' := by
    rw [fltValue_fin, fltValue_fin, ← mul_toNat_sub_zpow m (min_le_left e e'),
      ← mul_toNat_sub_zpow m' (min_le_right e e'), Int.cast_add, signedInt_eq, signedInt_eq]
    ring
  simp only [fadd, fltAdd, hsum]
  generalize signedInt n _ + signedInt n' _ = v
  generalize min e e' = t
  split
  · rename_i hv
    simpa [hv] using (zero_roundsMagnitude binary32_proper false (n && n')).roundsOnce le_rfl
  · have h := (roundTo_roundsMagnitude binary32_proper (decide (v < 0)) v.natAbs t).roundsOnce (by positivity)
    rwa [← mul_assoc, signRat_decide_mul_natAbs] at h

theorem fmul_fin_roundsOnce (n n' : Bool) (m m' : ℕ) (e e' : ℤ) :
    RoundsOnce (fltValue (.fin n m e) * fltValue (.fin n' m' e')) (fmul (.fin n m e) (.fin n' m' e')) := by
  have hprod : fltValue (.fin n m e) * fltValue (.fin n' m' e') =
      signRat (n != n') * (((m * m' : ℕ) : ℚ) * 2 ^ (e + e')) := by
    rw [fltValue_fin, fltValue_fin, signRat_bne, zpow_add₀ two_ne_zero]
    push_cast
    ring
  rw [hprod]
  exact (roundTo_roundsMagnitude binary32_proper (n != n') (m * m') (e + e')).roundsOnce (by positivity)

theorem fdiv_fin_roundsOnce (n n' : Bool) (m m' : ℕ) (e e' : ℤ) (hm' : m' ≠ 0) :
    RoundsOnce (fltValue (.fin n m e) / fltValue (.fin n' m' e')) (fdiv (.fin n m e) (.fin n' m' e')) := by
  have hquot : fltValue (.fin n m e) / fltValue (.fin n' m' e') =
      signRat (n != n') * ((m : ℚ) / m' * 2 ^ (e - e')) := by
    rw [fltValue_fin, fltValue_fin, signRat_div, zpow_sub₀ two_ne_zero, mul_div_mul_comm, mul_div_mul_comm]
  rw [hquot]
  simp only [fdiv, fltDiv, if_neg hm']
  exact (roundQuotient_roundsMagnitude binary32_proper (n != n') m m' hm' (e - e')).roundsOnce (by positivity)

theorem finite_operands_round_once (a b : Flt) (ha : fltFinite a = true) (hb : fltFinite b = true) :
    RoundsOnce (fltValue a + fltValue b) (fadd a b) ∧ RoundsOnce (fltValue a * fltValue b) (fmul a b) ∧
      (fltValue b ≠ 0 → RoundsOnce (fltValue a / fltValue b) (fdiv a b)) ∧
      (fltValue b = 0 → fltValue a = 0 → fdiv a b = .nan) := by
  match a, b with
  | .fin n m e, .fin n' m' e' =>
    refine ⟨fadd_fin_roundsOnce .., fmul_fin_roundsOnce .., fun h => ?_, fun hb0 ha0 => ?_⟩
    · exact fdiv_fin_roundsOnce _ _ _ _ _ _ (mt fltValue_fin_eq_zero.mpr h)
    · simp [fdiv, fltDiv, fltValue_fin_eq_zero.mp hb0, fltValue_fin_eq_zero.mp ha0]

/-! ## NaNs and infinities -/

theorem nan_operand_gives_nan (a : Flt) :
    ∀ op ∈ [fadd, fmul, fdiv], op a .nan = .nan ∧ op .nan a = .nan := by
  simp only [List.forall_mem_cons, List.not_mem_nil, false_implies, implies_true, and_true]
  cases a <;> exact ⟨⟨rfl, rfl⟩, ⟨rfl, rfl⟩, rfl, rfl⟩

theorem infinite_with_finite_operand (n : Bool) (a : Flt) (ha : fltFinite a = true) :
    fadd (.inf n) a = .inf n ∧ fadd a (.inf n) = .inf n ∧ fltValue (fdiv a (.inf n)) = 0 ∧
      fltFinite (fdiv a (.inf n)) = true ∧
      (fltValue a = 0 → fmul (.inf n) a = .nan ∧ fmul a (.inf n) = .nan) ∧
      (0 < fltValue a → fmul (.inf n) a = .inf n ∧ fmul a (.inf n) = .inf n ∧ fdiv (.inf n) a = .inf n) ∧
      (fltValue a < 0 → fmul (.inf n) a = .inf !n ∧ fmul a (.inf n) = .inf !n ∧ fdiv (.inf n) a = .inf !n) := by
  match a with
  | .fin n' m e =>
    refine ⟨rfl, rfl, fltValue_zero _ _, rfl, fun h => ?_, fun h => ?_, fun h => ?_⟩
    · simp [fmul, fltMul, fltValue_fin_eq_zero.mp h]
    · obtain ⟨rfl, hm⟩ := fltValue_fin_pos.mp h
      simp [fmul, fltMul, fdiv, fltDiv, hm]
    · obtain ⟨rfl, hm⟩ := fltValue_fin_neg.mp h
      simp [fmul, fltMul, fdiv, fltDiv, hm]

/-! ## Bit patterns and integers -/

/-- `f32_of_bits` by the fields' arithmetic values. -/
theorem f32OfBits_eq (w : Word) :
    f32OfBits w =
      if w.toNat / 2 ^ 23 % 2 ^ 8 = 255 then
        if w.toNat % 2 ^ 23 = 0 then .inf (decide (2 ^ 31 ≤ w.toNat)) else .nan
      else if w.toNat / 2 ^ 23 % 2 ^ 8 = 0 then .fin (decide (2 ^ 31 ≤ w.toNat)) (w.toNat % 2 ^ 23) (-149)
      else .fin (decide (2 ^ 31 ≤ w.toNat)) (2 ^ 23 + w.toNat % 2 ^ 23) ((w.toNat / 2 ^ 23 % 2 ^ 8 : ℕ) - 150) := by
  have hsign : w.getLsbD 31 = decide (2 ^ 31 ≤ w.toNat) := BitVec.msb_eq_decide w
  simp only [f32OfBits, hsign, BitVec.extractLsb'_toNat, Nat.shiftRight_eq_div_pow, pow_zero, Nat.div_one]

theorem signRat_decide_le (w : ℕ) : signRat (decide (2 ^ 31 ≤ w)) = if w < 2 ^ 31 then 1 else -1 := by
  by_cases h : w < 2 ^ 31
  · rw [decide_eq_false (not_le.mpr h), if_pos h, signRat_false]
  · rw [decide_eq_true (not_lt.mp h), if_neg h, signRat_true]

theorem f32OfBits_reads_fields (w : Word) :
    let e : Nat := w.toNat / 2 ^ 23 % 2 ^ 8
    let f : Nat := w.toNat % 2 ^ 23
    let sign : ℚ := if w.toNat < 2 ^ 31 then 1 else -1
    let v := f32OfBits w
    (e = 255 → f = 0 → v = .inf (decide (2 ^ 31 ≤ w.toNat))) ∧ (e = 255 → f ≠ 0 → v = .nan) ∧
    (e = 0 → fltDatum binary32 v ∧ fltValue v = sign * f * 2 ^ (-149 : ℤ)) ∧
    (0 < e → e < 255 → fltDatum binary32 v ∧ fltValue v = sign * (2 ^ 23 + f) * 2 ^ ((e : ℤ) - 150)) := by
  intro e f sign v
  have hf : f < 2 ^ 23 := Nat.mod_lt _ (by norm_num)
  have hv : v = if e = 255 then if f = 0 then .inf (decide (2 ^ 31 ≤ w.toNat)) else .nan
      else if e = 0 then .fin (decide (2 ^ 31 ≤ w.toNat)) f (-149)
      else .fin (decide (2 ^ 31 ≤ w.toNat)) (2 ^ 23 + f) ((e : ℕ) - 150) := f32OfBits_eq w
  have hs : signRat (decide (2 ^ 31 ≤ w.toNat)) = sign := signRat_decide_le _
  clear_value e f sign v
  refine ⟨fun he hf0 => ?_, fun he hf0 => ?_, fun he => ?_, fun h0 h255 => ?_⟩
  · rw [hv, if_pos he, if_pos hf0]
  · rw [hv, if_pos he, if_neg hf0]
  · rw [hv, if_neg (by omega), if_pos he, fltValue_fin, hs, mul_assoc]
    exact ⟨⟨by simp only [binary32]; omega, by simp [binary32], by simp [binary32]⟩, rfl⟩
  · rw [hv, if_neg (by omega), if_neg (by omega), fltValue_fin, hs, mul_assoc]
    refine ⟨⟨?_, ?_, ?_⟩, by push_cast; rfl⟩ <;> simp only [binary32] <;> omega

/-- A number that is a datum is its own rounding. -/
theorem fltValue_eq_of_nearestEven_datum {F : FloatFormat} {x : ℚ} {r d : Flt} (h : NearestEven F x r)
    (hd : fltDatum F d) (hx : fltValue d = x) : fltValue r = x := by
  have hle := (h.2 d hd).1
  rw [hx, sub_self, abs_zero] at hle
  exact (sub_eq_zero.mp (abs_nonpos_iff.mp hle)).symm

theorem f32OfInt_exact (n : ℕ) (hn : n ≤ 65025) : fltDatum binary32 (f32OfInt n) ∧ fltValue (f32OfInt n) = n := by
  have hround := (roundTo_roundsMagnitude binary32_proper false n 0).1
  simp only [zpow_zero, mul_one, signRat_false, one_mul, overflowBound_binary32] at hround
  have hnQ : (n : ℚ) ≤ 65025 := by exact_mod_cast hn
  have hnear : NearestEven binary32 n (f32OfInt n) := hround (by norm_num; linarith)
  have hdatum : fltDatum binary32 (.fin false n 0) := by
    refine ⟨?_, ?_, ?_⟩ <;> simp only [binary32] <;> omega
  exact ⟨hnear.1, fltValue_eq_of_nearestEven_datum hnear hdatum (by simp [fltValue_fin])⟩

/-- Settles O22: every operation rounds an exact integer significand once (`StandsFor.roundTo_roundsMagnitude`); the
other clauses are the fields of a word and the special operands. -/
theorem floatOperationsRoundToNearestEven : Obligations.FloatOperationsRoundToNearestEven := by
  unfold Obligations.FloatOperationsRoundToNearestEven
  exact ⟨f32OfBits_reads_fields, finite_operands_round_once, nan_operand_gives_nan,
    fun _ _ => ⟨rfl, rfl, rfl⟩, infinite_with_finite_operand, f32OfInt_exact⟩

end Sys2Proof.Proofs.Float
end

section
/-! SUPPORT. The register file (`10_state.md` R22 to R25, R30): the map from indices to registers, what a register reads
after a store, and what one host transaction does; with the statements that speak of these alone. -/

namespace Sys2Proof.Proofs.Registers

open Sys2Proof.Machine

/-! ## Indices and registers -/

theorem regOfIndex_regIndex (r : Reg) : regOfIndex (regIndex r) = some r := by
  cases r with
  | base n => cases n <;> rfl
  | dim n => cases n <;> rfl
  | stride n => cases n <;> rfl
  | mat n => revert n; decide
  | _ => rfl

/-- The reserved indices (R25). -/
theorem regOfIndex_eq_none_iff : ∀ i : RegIndex,
    regOfIndex i = none ↔ i.toNat ∈ [0x06, 0x07, 0x0B, 0x0F, 0x13] ∨ 0x34 ≤ i.toNat := by
  decide +kernel

theorem eq_regIndex_of_regOfIndex : ∀ (i : RegIndex), ∀ r ∈ regOfIndex i, i = regIndex r := by
  decide +kernel

/-- The register map is one to one: `regIndex` is the inverse of `regOfIndex`. -/
theorem regOfIndex_eq_some_iff {i : RegIndex} {r : Reg} : regOfIndex i = some r ↔ i = regIndex r :=
  ⟨eq_regIndex_of_regOfIndex i r, fun h => h ▸ regOfIndex_regIndex r⟩

theorem indexRead_eq {i : RegIndex} {r : Reg} (h : regOfIndex i = some r) (s : State) :
    indexRead s i = regRead s r := by
  simp only [indexRead, h]

theorem indexRead_reserved {i : RegIndex} (h : regOfIndex i = none) (s : State) : indexRead s i = 0 := by
  simp only [indexRead, h]

theorem indexRead_regIndex (s : State) (r : Reg) : indexRead s (regIndex r) = regRead s r :=
  indexRead_eq (regOfIndex_regIndex r) s

/-- From index `0x08` on every register is of class `RW` (R30). -/
theorem accessOf_eq_rw_iff (r : Reg) : accessOf r = .rw ↔ 0x08 ≤ (regIndex r).toNat := by
  cases r with
  | base n => cases n <;> decide
  | dim n => cases n <;> decide
  | stride n => cases n <;> decide
  | mat n => revert n; decide
  | _ => decide

theorem accessOf_eq_ro_iff (r : Reg) : accessOf r = .ro ↔ (regIndex r).toNat ∈ [0x00, 0x03, 0x04, 0x05] := by
  cases r with
  | base n => cases n <;> decide
  | dim n => cases n <;> decide
  | stride n => cases n <;> decide
  | mat n => revert n; decide
  | _ => decide

theorem accessOf_eq_wo_iff (r : Reg) : accessOf r = .wo ↔ r = .cmd := by cases r <;> simp [accessOf]

theorem accessOf_eq_w1c_iff (r : Reg) : accessOf r = .w1c ↔ r = .status := by cases r <;> simp [accessOf]

/-! ## Reads after a store -/

/-- Replacing a slot's registers changes no register that holds the same value in both. -/
theorem regRead_setSlot {s : State} {n : Slot} {q : SlotRegs} {r : Reg}
    (hbase : r = .base n → q.base = (s.slot n).base) (hdim : r = .dim n → q.dim = (s.slot n).dim)
    (hstride : r = .stride n → q.stride = (s.slot n).stride) : regRead (s.setSlot n q) r = regRead s r := by
  have slots : ∀ k, k = n ∨ (s.setSlot n q).slot k = s.slot k := fun k =>
    (eq_or_ne k n).imp_right (State.slot_setSlot_other s n k q)
  cases r with
  | base k =>
    rcases slots k with rfl | h
    · simpa [regRead] using hbase rfl
    · simp [regRead, h]
  | dim k =>
    rcases slots k with rfl | h
    · simpa [regRead] using hdim rfl
    · simp [regRead, h]
  | stride k =>
    rcases slots k with rfl | h
    · simpa [regRead] using hstride rfl
    · simp [regRead, h]
  | _ => simp [regRead]

theorem regRead_regStore_same {r : Reg} (s : State) (v : Word) (h : accessOf r = .rw) :
    regRead (regStore s r v) r = v := by
  cases r with
  | id | cmd | status | illcmd | effdim | lastk => simp [accessOf] at h
  | mat n => simp [regRead, regStore, Vector.get_eq_getElem]
  | _ => simp [regRead, regStore]

theorem regRead_regStore_other {r r' : Reg} (s : State) (v : Word) (h : r' ≠ r) :
    regRead (regStore s r v) r' = regRead s r' := by
  cases r with
  | base n => exact regRead_setSlot (fun hr => absurd hr h) (fun _ => rfl) fun _ => rfl
  | dim n => exact regRead_setSlot (fun _ => rfl) (fun hr => absurd hr h) fun _ => rfl
  | stride n => exact regRead_setSlot (fun _ => rfl) (fun _ => rfl) fun hr => absurd hr h
  | mat n =>
    cases r' with
    | mat k =>
      have hne : n.val ≠ k.val := fun hv => h (by rw [Fin.ext hv])
      simp [regRead, regStore, Vector.get_eq_getElem, Vector.getElem_set_ne, hne]
    | _ => rfl
  | _ => cases r' <;> first | rfl | exact absurd rfl h

@[simp] theorem regStore_mem (s : State) (r : Reg) (v : Word) : (regStore s r v).mem = s.mem := by
  cases r <;> simp [regStore]

@[simp] theorem regStore_params (s : State) (r : Reg) (v : Word) : (regStore s r v).params = s.params := by
  cases r <;> simp [regStore]

@[simp] theorem regStore_status (s : State) (r : Reg) (v : Word) : (regStore s r v).status = s.status := by
  cases r <;> simp [regStore]

@[simp] theorem regStore_lastk (s : State) (r : Reg) (v : Word) : (regStore s r v).lastk = s.lastk := by
  cases r <;> simp [regStore]

@[simp] theorem regStore_pending (s : State) (r : Reg) (v : Word) : (regStore s r v).pending = s.pending := by
  cases r <;> simp [regStore]

@[simp] theorem regStore_replies (s : State) (r : Reg) (v : Word) : (regStore s r v).replies = s.replies := by
  cases r <;> simp [regStore]

theorem regRead_pending (s : State) (rest : List HostEvent) (r : Reg) :
    regRead { s with pending := rest } r = regRead s r := by
  cases r <;> rfl

theorem regRead_writeStatus_other {r : Reg} (s : State) (v : Word) (h : r ≠ .status) :
    regRead (writeStatus s v) r = regRead s r := by
  cases r with
  | status => exact absurd rfl h
  | _ => rfl

/-! ## One host transaction -/

/-- A step with an action pending performs it, taken off the host's list. -/
theorem step_of_pending {s : State} {e : HostEvent} {rest : List HostEvent} (h : s.pending = e :: rest) :
    step s = hostEvent e { s with pending := rest } := by
  simp only [step_eq, h]

theorem hostWrite_reserved {i : RegIndex} (h : regOfIndex i = none) (v : Word) (s : State) :
    hostWrite i v s = .next s := by
  simp only [hostWrite_eq, h]

theorem hostWrite_rw {i : RegIndex} {r : Reg} (h : regOfIndex i = some r) (ha : accessOf r = .rw) (v : Word)
    (s : State) : hostWrite i v s = .next (regStore s r v) := by
  simp only [hostWrite_eq, h, ha]

theorem hostWrite_ro {i : RegIndex} {r : Reg} (h : regOfIndex i = some r) (ha : accessOf r = .ro) (v : Word)
    (s : State) : hostWrite i v s = .next s := by
  simp only [hostWrite_eq, h, ha]

theorem hostWrite_cmd (v : Word) (s : State) : hostWrite 0x01 v s = runCommand v s := rfl

theorem hostWrite_status (v : Word) (s : State) : hostWrite 0x02 v s = .next (writeStatus s v) := rfl

/-- A host write runs a command, writes `STATUS`, stores in a register of class `RW`, or has no effect (R23, R25). -/
theorem hostWrite_cases (i : RegIndex) (v : Word) (s : State) :
    (i = 0x01 ∧ hostWrite i v s = runCommand v s) ∨ (i = 0x02 ∧ hostWrite i v s = .next (writeStatus s v)) ∨
      (∃ r, regOfIndex i = some r ∧ accessOf r = .rw ∧ hostWrite i v s = .next (regStore s r v)) ∨
      ((∀ r, regOfIndex i = some r → accessOf r = .ro) ∧ hostWrite i v s = .next s) := by
  cases h : regOfIndex i with
  | none => exact .inr (.inr (.inr ⟨nofun, hostWrite_reserved h v s⟩))
  | some r =>
    cases ha : accessOf r with
    | rw => exact .inr (.inr (.inl ⟨r, rfl, ha, hostWrite_rw h ha v s⟩))
    | ro => exact .inr (.inr (.inr ⟨fun _ hr => Option.some.inj hr ▸ ha, hostWrite_ro h ha v s⟩))
    | wo =>
      obtain rfl := (accessOf_eq_wo_iff r).mp ha
      obtain rfl := regOfIndex_eq_some_iff.mp h
      exact .inl ⟨rfl, rfl⟩
    | w1c =>
      obtain rfl := (accessOf_eq_w1c_iff r).mp ha
      obtain rfl := regOfIndex_eq_some_iff.mp h
      exact .inr (.inl ⟨rfl, rfl⟩)

/-! ## The statements about the register file -/

/-- Settles O11: `regIndex` inverts `regOfIndex`, and the table's rows are evaluated. -/
theorem registerMapIsOneToOne : Obligations.RegisterMapIsOneToOne := by
  unfold Obligations.RegisterMapIsOneToOne
  exact ⟨fun _ _ => regOfIndex_eq_some_iff, by decide, fun n => ⟨regOfIndex_regIndex (.mat n), rfl⟩,
    fun s => ⟨rfl, fun n => indexRead_regIndex s (.mat n)⟩⟩

/-- Settles O10: which indices are reserved is evaluated; what one reads and stores follows for every state. -/
theorem reservedIndicesReadZeroAndIgnoreWrites : Obligations.ReservedIndicesReadZeroAndIgnoreWrites := by
  unfold Obligations.ReservedIndicesReadZeroAndIgnoreWrites
  exact fun i => ⟨regOfIndex_eq_none_iff i, fun h s v => ⟨indexRead_reserved h s, hostWrite_reserved h v s⟩⟩

/-- Settles O12, by the four things a host write can do. -/
theorem differentIndicesNeverAlias : Obligations.DifferentIndicesNeverAlias := by
  unfold Obligations.DifferentIndicesNeverAlias
  intro s t i j v hcmd hij hw
  cases hj : regOfIndex j with
  | none => rw [indexRead_reserved hj, indexRead_reserved hj]
  | some r' =>
    rw [indexRead_eq hj, indexRead_eq hj]
    have hother : ∀ r, regOfIndex i = some r → r' ≠ r := by
      rintro r hi rfl
      exact hij ((regOfIndex_eq_some_iff.mp hi).trans (regOfIndex_eq_some_iff.mp hj).symm)
    rcases hostWrite_cases i v s with ⟨h1, -⟩ | ⟨rfl, h⟩ | ⟨r, hi, -, h⟩ | ⟨-, h⟩
    · exact absurd h1 hcmd
    · obtain rfl := Host.Outcome.next.inj (h.symm.trans hw)
      exact regRead_writeStatus_other s v (hother .status rfl)
    · obtain rfl := Host.Outcome.next.inj (h.symm.trans hw)
      exact regRead_regStore_other s v (hother r hi)
    · obtain rfl := Host.Outcome.next.inj (h.symm.trans hw)
      rfl

/-- Settles O9: the reply is `indexRead` of the index. -/
theorem hostReadReturnsTheValueAndChangesNothing : Obligations.HostReadReturnsTheValueAndChangesNothing := by
  unfold Obligations.HostReadReturnsTheValueAndChangesNothing
  intro s i rest hp
  refine ⟨indexRead s i, step_of_pending hp, fun h => indexRead_reserved h s, fun h => indexRead_eq h s,
    fun h => indexRead_eq h s, fun r h _ => indexRead_eq h s⟩

/-- Settles O8, clause by clause from the access class that R30 gives the index. -/
theorem hostWriteByAccessClass : Obligations.HostWriteByAccessClass := by
  unfold Obligations.HostWriteByAccessClass
  intro s i v rest hp u
  have hstep : step s = hostWrite i v u := step_of_pending hp
  rw [hstep]
  refine ⟨fun r hr hi => ?_, ?_, ?_, fun hi => ?_, fun h => hostWrite_reserved h v u⟩
  · have hrw : accessOf r = .rw := (accessOf_eq_rw_iff r).mpr (regOfIndex_eq_some_iff.mp hr ▸ hi)
    exact ⟨_, hostWrite_rw hr hrw v u, regRead_regStore_same u v hrw,
      fun r' h => (regRead_regStore_other u v h).trans (regRead_pending s rest r'),
      regStore_mem u r v, regStore_pending u r v, regStore_replies u r v, regStore_params u r v,
      regStore_status u r v⟩
  · rintro rfl
    exact hostWrite_cmd v u
  · rintro rfl
    exact hostWrite_status v u
  · have named : regOfIndex i ≠ none := fun h => by
      have := (regOfIndex_eq_none_iff i).mp h
      simp only [List.mem_cons, List.not_mem_nil, or_false] at hi this
      omega
    obtain ⟨r, hr⟩ := Option.ne_none_iff_exists'.mp named
    exact hostWrite_ro hr ((accessOf_eq_ro_iff r).mpr (regOfIndex_eq_some_iff.mp hr ▸ hi)) v u

end Sys2Proof.Proofs.Registers
end

section
/-! SUPPORT. What a command can do, once for all 31 (`10_state.md` R27, R43): it does nothing (`NOP`), replaces one slot
(`SUBSURF`), or latches its size and kernels and then accesses pixel memory, looking at no other register. -/

namespace Sys2Proof.Proofs.Commands

open Sys2Proof.Machine

/-! ## Runs of element writes -/

/-- `t` is `s` after some writes of elements that exist. -/
def Writes : State → State → Prop :=
  Relation.ReflTransGen fun u v => ∃ e w, e < u.params.memElems ∧ v = u.setElem e w

theorem Writes.single {s : State} {e : Nat} (w : Word) (h : e < s.params.memElems) : Writes s (s.setElem e w) :=
  Relation.ReflTransGen.single ⟨e, w, h, rfl⟩

/-- What every element write keeps, a run of them keeps. -/
theorem Writes.keeps {s t : State} (h : Writes s t) (P : State → Prop)
    (write : ∀ u e w, e < u.params.memElems → P u → P (u.setElem e w)) (h0 : P s) : P t := by
  induction h with
  | refl => exact h0
  | tail _ hw ih =>
    obtain ⟨e, w, he, rfl⟩ := hw
    exact write _ e w he ih

/-- Element writes change memory and nothing else. -/
theorem Writes.frame {s t : State} (h : Writes s t) : t = { s with mem := t.mem } :=
  h.keeps (fun u => u = { s with mem := u.mem }) (fun _ _ _ _ hu => by rw [hu]; rfl) rfl

/-- Element writes keep memory in its canonical form and inside its bounds. -/
theorem Writes.mem_ok {s t : State} (h : Writes s t) (hwf : s.mem.wf = true)
    (hin : s.mem.within s.params.memElems = true) : t.mem.wf = true ∧ t.mem.within t.params.memElems = true :=
  h.keeps (fun u => u.mem.wf = true ∧ u.mem.within u.params.memElems = true)
    (fun _ _ _ he ⟨hwf, hin⟩ => ⟨Memory.wf_setElem _ _ _ _ hwf, Memory.within_setElem _ _ _ _ _ hin he⟩) ⟨hwf, hin⟩

theorem Writes.params {s t : State} (h : Writes s t) : t.params = s.params := by rw [h.frame]

theorem Writes.regRead {s t : State} (h : Writes s t) (r : Reg) : regRead t r = regRead s r := by
  rw [h.frame]
  cases r <;> rfl

/-! ## Accesses that look at memory and the parameters alone -/

/-- The registers and host lists of `r` beside the memory and parameters of `u`. -/
def withRegs (r u : State) : State := { r with mem := u.mem, params := u.params }

theorem withRegs_eq_left {r u : State} (hm : r.mem = u.mem) (hp : r.params = u.params) : withRegs r u = r := by
  simp only [withRegs, ← hm, ← hp]

theorem memRead_withRegs (r s : State) (e : Nat) : memRead (withRegs r s) e = memRead s e := rfl

theorem memWrite_withRegs (r s : State) (e : Nat) (v : Word) :
    memWrite (withRegs r s) e v = (memWrite s e v).map (withRegs r) := by
  by_cases h : e < s.params.memElems
  · simp only [memWrite, withRegs, h, if_true, Except.map]
    rfl
  · simp only [memWrite, withRegs, h, if_false, Except.map]

/-- A routine over `σ`, in which `view` is the machine's state and `regs` replaces its registers: it writes elements
that exist, and does the same whatever the registers and the host's lists hold. -/
structure MemoryAction {σ : Type} (view : σ → State) (regs : State → σ → σ) (g : σ → Except Fault σ) : Prop where
  writes : ∀ x y, g x = .ok y → Writes (view x) (view y)
  ignoresRegs : ∀ r x, g (regs r x) = (g x).map (regs r)

namespace MemoryAction

variable {σ : Type} {view : σ → State} {regs : State → σ → σ} {f g : σ → Except Fault σ}

theorem ok : MemoryAction view regs .ok where
  writes x y h := by
    cases h
    exact .refl
  ignoresRegs _ _ := rfl

theorem bind (hf : MemoryAction view regs f) (hg : MemoryAction view regs g) :
    MemoryAction view regs fun x => (f x).bind g where
  writes x y h := by
    obtain ⟨z, hz, hy⟩ := bind_eq_ok.mp h
    exact (hf.writes x z hz).trans (hg.writes z y hy)
  ignoresRegs r x := by
    rw [hf.ignoresRegs r x]
    cases f x with
    | error e => rfl
    | ok y => exact hg.ignoresRegs r y

theorem ite {c : Prop} [Decidable c] (hf : MemoryAction view regs f) (hg : MemoryAction view regs g) :
    MemoryAction view regs fun x => if c then f x else g x := by
  by_cases h : c
  · simpa only [h, if_true] using hf
  · simpa only [h, if_false] using hg

theorem forRange {body : Nat → σ → Except Fault σ} (h : ∀ i, MemoryAction view regs (body i)) (start count : Nat) :
    MemoryAction view regs (forRange body start count) := by
  induction count generalizing start with
  | zero => exact ok
  | succ n ih => exact (h start).bind (ih (start + 1))

end MemoryAction

/-! ## The routines of the machine -/

/-- A sequence of accesses to pixel memory. -/
abbrev StateAction (g : State → Except Fault State) : Prop := MemoryAction id withRegs g

theorem mapPixel_action (A B : Surface) (f : Word → Word) (x y : Nat) : StateAction (mapPixel A B f x y) where
  writes s t h := by
    obtain ⟨-, hB, rfl⟩ := mapPixel_eq_ok.mp h
    exact .single _ hB
  ignoresRegs r s := by
    simp only [mapPixel, memRead_withRegs, memWrite_withRegs]
    cases memRead s (A.addr x y) <;> rfl

theorem zipPixel_action (A B C : Surface) (f : Word → Word → Word) (x y : Nat) :
    StateAction (zipPixel A B C f x y) where
  writes s t h := by
    obtain ⟨-, -, hC, rfl⟩ := zipPixel_eq_ok.mp h
    exact .single _ hC
  ignoresRegs r s := by
    simp only [zipPixel, memRead_withRegs, memWrite_withRegs]
    cases memRead s (A.addr x y) with
    | error e => rfl
    | ok p => cases memRead s (B.addr x y) <;> rfl

theorem pixelLoop_action {body : Nat → Nat → State → Except Fault State} (h : ∀ x y, StateAction (body x y))
    (width height : Nat) : StateAction (pixelLoop width height body) :=
  .forRange (fun y => .forRange (fun x => h x y) 0 width) 0 height

theorem copyRegion_action (A B : Surface) (w h : Nat) : StateAction (copyRegion A B w h) :=
  pixelLoop_action (mapPixel_action A B _) w h

/-- A part of the line routine of the box filter. -/
abbrev LineAction (g : Line → Except Fault Line) : Prop :=
  MemoryAction Line.st (fun r L => { L with st := withRegs r L.st }) g

theorem loadPixel_action (src : Nat → Nat) (k i : Nat) : LineAction (loadPixel src k i) where
  writes L M h := by
    obtain ⟨-, rfl⟩ := loadPixel_eq_ok.mp h
    exact .refl
  ignoresRegs r L := by
    simp only [loadPixel, memRead_withRegs]
    cases memRead L.st (src i) <;> rfl

theorem emit_action (dst : Nat → Nat) (k c : Nat) : LineAction (emit dst k c) where
  writes L M h := by
    obtain ⟨hdst, rfl⟩ := emit_eq_ok.mp h
    exact .single _ hdst
  ignoresRegs r L := by
    simp only [emit, memWrite_withRegs]
    change ((memWrite L.st (dst c) (average k L)).map _).bind _ = _
    cases memWrite L.st (dst c) (average k L) <;> rfl

/-- Evicting a slot of the scratch window first changes nothing in a routine's accesses. -/
theorem after_evict {g : Line → Except Fault Line} (hg : LineAction g) (slot : Nat) :
    LineAction fun L => g (evict slot L) where
  writes L := hg.writes (evict slot L)
  ignoresRegs r L := hg.ignoresRegs r (evict slot L)

theorem fillStep_action (src dst : Nat → Nat) (k n i : Nat) : LineAction (fillStep src dst k n i) :=
  (loadPixel_action src k i).bind ((emit_action dst k _).ite .ok)

theorem steadyStep_action (src dst : Nat → Nat) (k i : Nat) : LineAction (steadyStep src dst k i) :=
  after_evict ((loadPixel_action src k i).bind (emit_action dst k _)) (i % k)

theorem drainStep_action (dst : Nat → Nat) (k n i : Nat) : LineAction (drainStep dst k n i) :=
  after_evict ((emit_action dst k _).ite .ok) (i % k)

/-- The three phases of a line (R163), from a line's start to its end. -/
def linePhases (src dst : Nat → Nat) (k n : Nat) (L : Line) : Except Fault Line :=
  (forRange (fillStep src dst k n) 0 k L).bind fun L =>
    (forRange (steadyStep src dst k) k (n - k) L).bind (forRange (drainStep dst k n) n k)

theorem boxLine_eq (src dst : Nat → Nat) (k n : Nat) (s : State) :
    boxLine src dst k n s = (linePhases src dst k n (startLine s)).map Line.st := by
  unfold boxLine linePhases
  cases forRange (fillStep src dst k n) 0 k (startLine s) with
  | error e => rfl
  | ok L =>
    simp only [Except.bind]
    cases forRange (steadyStep src dst k) k (n - k) L <;> rfl

theorem linePhases_action (src dst : Nat → Nat) (k n : Nat) : LineAction (linePhases src dst k n) :=
  (MemoryAction.forRange (fillStep_action src dst k n) 0 k).bind
    ((MemoryAction.forRange (steadyStep_action src dst k) k (n - k)).bind
      (.forRange (drainStep_action dst k n) n k))

theorem boxLine_action (src dst : Nat → Nat) (k n : Nat) : StateAction (boxLine src dst k n) where
  writes s t h := by
    rw [boxLine_eq] at h
    have hline := (linePhases_action src dst k n).writes (startLine s)
    cases hL : linePhases src dst k n (startLine s) with
    | error e => simp [hL, Except.map] at h
    | ok L =>
      simp only [hL, Except.map, Except.ok.injEq] at h
      exact h ▸ hline L hL
  ignoresRegs r s := by
    have hstart : startLine (withRegs r s) = { startLine s with st := withRegs r (startLine s).st } := rfl
    rw [boxLine_eq, boxLine_eq, hstart, (linePhases_action src dst k n).ignoresRegs r (startLine s)]
    cases linePhases src dst k n (startLine s) <;> rfl

theorem rowPass_action (A B : Surface) (k w h : Nat) : StateAction (rowPass A B k w h) :=
  (copyRegion_action A B w h).ite (.forRange (fun _ => boxLine_action _ _ k w) 0 h)

theorem colPass_action (A B : Surface) (k w h : Nat) : StateAction (colPass A B k w h) :=
  (copyRegion_action A B w h).ite (.forRange (fun _ => boxLine_action _ _ k h) 0 w)

theorem boxStep_action (A B : Surface) (kx ky w h : Nat) : StateAction (boxStep A B kx ky w h) :=
  (rowPass_action A B kx w h).bind (colPass_action B B ky w h)

theorem threeSteps_action (A B : Surface) (kx ky w h : Nat) : StateAction (threeSteps A B kx ky w h) :=
  (boxStep_action A B kx ky w h).bind ((boxStep_action B B kx ky w h).bind (boxStep_action B B kx ky w h))

/-! ## What the registers a command reads determine -/

/-- The parameters and every register that the command reads hold the same (R43). -/
structure SameInputs (i : Instr) (s s' : State) : Prop where
  params : s'.params = s.params
  reads : ∀ r, readsReg i r = true → regRead s' r = regRead s r

section
variable {i : Instr} {s s' : State}

theorem SameInputs.slot {n : Slot} (h : SameInputs i s s') (hn : n ∈ usedSlots i ∨ subsurfSlot i = some n) :
    s'.slot n = s.slot n := by
  have reads : ((usedSlots i).contains n || subsurfSlot i == some n) = true := by simpa using hn
  have hbase : (s'.slot n).base = (s.slot n).base := h.reads (.base n) reads
  have hdim : (s'.slot n).dim = (s.slot n).dim := h.reads (.dim n) reads
  have hstride : (s'.slot n).stride = (s.slot n).stride := h.reads (.stride n) reads
  cases hs : s.slot n
  cases hs' : s'.slot n
  simp only [hs, hs'] at hbase hdim hstride
  rw [hbase, hdim, hstride]

theorem SameInputs.surf {n : Slot} (h : SameInputs i s s') (hn : n ∈ usedSlots i) : surf s' n = surf s n :=
  congrArg SlotRegs.surface (h.slot (.inl hn))

theorem SameInputs.effSize (h : SameInputs i s s') : effSize i s' = effSize i s := by
  have hsurf : ∀ n ∈ usedSlots i, Machine.surf s' n = Machine.surf s n := fun n hn => h.surf hn
  unfold Machine.effSize
  cases hu : usedSlots i with
  | nil => rfl
  | cons n rest =>
    rw [hu] at hsurf
    simp only [hsurf n List.mem_cons_self,
      List.map_congr_left fun k hk => hsurf k (List.mem_cons_of_mem n hk)]

theorem SameInputs.usedKernels (h : SameInputs i s s') : usedKernels i s' = usedKernels i s := by
  have hsize := h.effSize
  cases i with
  | boxh =>
    have hkx : s'.kx = s.kx := h.reads .kx rfl
    simp only [Machine.usedKernels, hsize, hkx]
  | boxv =>
    have hky : s'.ky = s.ky := h.reads .ky rfl
    simp only [Machine.usedKernels, hsize, hky]
  | boxhv =>
    have hkx : s'.kx = s.kx := h.reads .kx rfl
    have hky : s'.ky = s.ky := h.reads .ky rfl
    simp only [Machine.usedKernels, hsize, hkx, hky]
  | gblur =>
    have hx : s'.stdX = s.stdX := h.reads .stdX rfl
    have hy : s'.stdY = s.stdY := h.reads .stdY rfl
    simp only [Machine.usedKernels, hsize, hx, hy]
  | _ => rfl

end

/-! ## Data commands -/

/-- The state with the effective size and the kernels of a command latched (R36, R37), before any pixel is touched. -/
def latched (i : Instr) (s : State) : State :=
  { s with effdim := packDim (effSize i s).1 (effSize i s).2, lastk := lastkAfter i s }

/-- A data command latches, then performs the accesses `G s`, which the registers it reads determine. -/
structure Engine (i : Instr) (G : State → State → Except Fault State) : Prop where
  action : ∀ s, StateAction (G s)
  same : ∀ s s', SameInputs i s s' → G s' = G s
  exec_eq : ∀ s, exec i s = finish (G s (latched i s))

section
variable {i : Instr}

theorem latched_eq_latchSize (hb : writesReg i .lastk = false) (s : State) :
    latched i s = latchSize s (effSize i s) := by
  simp only [latched, lastkAfter, hb, Bool.false_eq_true, if_false, latchSize]

/-- A one-input per-pixel command whose pixel function the registers it reads determine. -/
theorem oneInput_engine (F : State → Word → Word) (hu : usedSlots i = [.s0, .s2])
    (hb : writesReg i .lastk = false) (hexec : ∀ s, exec i s = oneInput (F s) s)
    (hF : ∀ s s', SameInputs i s s' → F s' = F s) :
    ∃ G, Engine i G := by
  have hsize : ∀ s, sizeOne s = effSize i s := fun s => by simp only [effSize, hu]; rfl
  refine ⟨fun s => pixelLoop (effSize i s).1 (effSize i s).2 (mapPixel (surf s .s0) (surf s .s2) (F s)),
    fun s => pixelLoop_action (mapPixel_action _ _ _) _ _, fun s s' h => ?_, fun s => ?_⟩
  · simp only [h.effSize, h.surf (n := .s0) (by simp [hu]), h.surf (n := .s2) (by simp [hu]), hF s s' h]
  · rw [hexec, oneInput, hsize, latched_eq_latchSize hb]

/-- A two-input per-pixel command whose pixel function the registers it reads determine. -/
theorem twoInput_engine (F : State → Word → Word → Word) (hu : usedSlots i = [.s0, .s1, .s2])
    (hb : writesReg i .lastk = false) (hexec : ∀ s, exec i s = twoInput (F s) s)
    (hF : ∀ s s', SameInputs i s s' → F s' = F s) :
    ∃ G, Engine i G := by
  have hsize : ∀ s, sizeTwo s = effSize i s := fun s => by simp only [effSize, hu]; rfl
  refine ⟨fun s => pixelLoop (effSize i s).1 (effSize i s).2
      (zipPixel (surf s .s0) (surf s .s1) (surf s .s2) (F s)),
    fun s => pixelLoop_action (zipPixel_action _ _ _ _) _ _, fun s s' h => ?_, fun s => ?_⟩
  · simp only [h.effSize, h.surf (n := .s0) (by simp [hu]), h.surf (n := .s1) (by simp [hu]),
      h.surf (n := .s2) (by simp [hu]), hF s s' h]
  · rw [hexec, twoInput, hsize, latched_eq_latchSize hb]

theorem oneInput_fixed_engine {f : Word → Word} (hu : usedSlots i = [.s0, .s2]) (hb : writesReg i .lastk = false)
    (hexec : ∀ s, exec i s = oneInput f s) : ∃ G, Engine i G :=
  oneInput_engine (fun _ => f) hu hb hexec fun _ _ _ => rfl

theorem oneInput_params_engine (F : Params → Word → Word) (hu : usedSlots i = [.s0, .s2])
    (hb : writesReg i .lastk = false) (hexec : ∀ s, exec i s = oneInput (F s.params) s) : ∃ G, Engine i G :=
  oneInput_engine (fun s => F s.params) hu hb hexec fun _ _ h => congrArg F h.params

theorem twoInput_fixed_engine {f : Word → Word → Word} (hu : usedSlots i = [.s0, .s1, .s2])
    (hb : writesReg i .lastk = false) (hexec : ∀ s, exec i s = twoInput f s) : ∃ G, Engine i G :=
  twoInput_engine (fun _ => f) hu hb hexec fun _ _ _ => rfl

/-- A blend mode of the open parameter `BLEND_FN` (D22): the parameters' filling picks the channel function. -/
theorem blendFill_engine (F : BlendFill → ChannelFn) (hu : usedSlots i = [.s0, .s1, .s2])
    (hb : writesReg i .lastk = false) (hexec : ∀ s, exec i s = twoInput (blendPixel (F s.params.blendFill)) s) :
    ∃ G, Engine i G :=
  twoInput_engine (fun s => blendPixel (F s.params.blendFill)) hu hb hexec fun s s' h => by rw [h.params]

/-- A command that filters with the kernels used, `G` the routine it picks by the registers it reads. -/
theorem blur_engine (G : State → Surface → Surface → Nat × Nat → Nat × Nat → State → Except Fault State)
    (hG : ∀ s A B k d, StateAction (G s A B k d)) (hsame : ∀ s s', SameInputs i s s' → G s' = G s)
    (hu : usedSlots i = [.s0, .s2])
    (hexec : ∀ s, exec i s = finish (G s (surf s .s0) (surf s .s2) (usedKernels i s) (effSize i s) (latched i s))) :
    ∃ G, Engine i G := by
  refine ⟨_, fun s => hG s (surf s .s0) (surf s .s2) (usedKernels i s) (effSize i s), fun s s' h => ?_, hexec⟩
  simp only [hsame s s' h, h.surf (n := .s0) (by simp [hu]), h.surf (n := .s2) (by simp [hu]), h.usedKernels,
    h.effSize]

end

theorem boxh_engine : ∃ G, Engine .boxh G :=
  blur_engine (fun _ A B k d => rowPass A B k.1 d.1 d.2) (fun _ A B k d => rowPass_action A B k.1 d.1 d.2)
    (fun _ _ _ => rfl) rfl fun _ => rfl

theorem boxv_engine : ∃ G, Engine .boxv G :=
  blur_engine (fun _ A B k d => colPass A B k.2 d.1 d.2) (fun _ A B k d => colPass_action A B k.2 d.1 d.2)
    (fun _ _ _ => rfl) rfl fun _ => rfl

theorem boxhv_engine : ∃ G, Engine .boxhv G :=
  blur_engine (fun _ A B k d => boxStep A B k.1 k.2 d.1 d.2) (fun _ A B k d => boxStep_action A B k.1 k.2 d.1 d.2)
    (fun _ _ _ => rfl) rfl fun _ => rfl

theorem capK_of_nonpos {k : Int} (h : k ≤ 0) (extent : Nat) : capK k extent = 0 := if_pos h

/-- `GBLUR` copies or filters by the deviations, before the kernels are capped (R173). -/
theorem gblur_engine : ∃ G, Engine .gblur G := by
  refine blur_engine
    (fun s A B k d => fun t => if kernelFromStd s.stdX ≤ 0 ∧ kernelFromStd s.stdY ≤ 0 then copyRegion A B d.1 d.2 t
      else threeSteps A B k.1 k.2 d.1 d.2 t)
    (fun _ A B k d => (copyRegion_action A B d.1 d.2).ite (threeSteps_action A B k.1 k.2 d.1 d.2))
    (fun s s' h => ?_) rfl (fun s => ?_)
  · have hx : s'.stdX = s.stdX := h.reads .stdX rfl
    have hy : s'.stdY = s.stdY := h.reads .stdY rfl
    simp only [hx, hy]
  · change execGblur s = _
    unfold execGblur
    by_cases hk : kernelFromStd s.stdX ≤ 0 ∧ kernelFromStd s.stdY ≤ 0
    · have hlatch : latched .gblur s = latchKernels s 0 0 := by
        simp only [latched, lastkAfter, usedKernels, capK_of_nonpos hk.1, capK_of_nonpos hk.2]
        rfl
      simp only [hk, and_self, if_true, hlatch]
      rfl
    · simp only [hk, if_false]
      rfl

theorem cmx_engine : ∃ G, Engine .cmx G := by
  refine oneInput_engine (fun s => cmxPixel (matrixOf s)) rfl rfl (fun _ => rfl) fun s s' h => ?_
  have hm : ∀ n, s'.m.get n = s.m.get n := fun n => h.reads (.mat n) rfl
  exact congrArg cmxPixel (funext fun n => congrArg f32OfBits (hm n))

theorem arith_engine : ∃ G, Engine .arith G := by
  refine twoInput_engine (fun s => arithPixel (f32OfBits s.k1) (f32OfBits s.k2) (f32OfBits s.k3) (f32OfBits s.k4))
    rfl rfl (fun _ => rfl) fun s s' h => ?_
  have h1 : s'.k1 = s.k1 := h.reads .k1 rfl
  have h2 : s'.k2 = s.k2 := h.reads .k2 rfl
  have h3 : s'.k3 = s.k3 := h.reads .k3 rfl
  have h4 : s'.k4 = s.k4 := h.reads .k4 rfl
  rw [h1, h2, h3, h4]

/-- Every data command latches, then performs accesses that the registers it reads determine. -/
theorem dataCommand_engine {i : Instr} (hd : isDataCommand i = true) : ∃ G, Engine i G := by
  cases i with
  | nop | subsurfS0 | subsurfS1 | subsurfS2 => exact absurd hd (by decide)
  | copy | lum2a => exact oneInput_fixed_engine rfl rfl fun _ => rfl
  | cmx => exact cmx_engine
  | s2l => exact oneInput_params_engine (fun p => gammaPixel p.lutS2L) rfl rfl fun _ => rfl
  | l2s => exact oneInput_params_engine (fun p => gammaPixel p.lutL2S) rfl rfl fun _ => rfl
  | boxh => exact boxh_engine
  | boxv => exact boxv_engine
  | boxhv => exact boxhv_engine
  | gblur => exact gblur_engine
  | blendNormal | blendMultiply | blendScreen | blendSoftlight | compOver | compIn | compOut | compAtop | compXor =>
    exact twoInput_fixed_engine rfl rfl fun _ => rfl
  | blendOverlay => exact blendFill_engine fnOverlay rfl rfl fun _ => rfl
  | blendHardlight => exact blendFill_engine fnHardlight rfl rfl fun _ => rfl
  | blendDarken => exact blendFill_engine fnDarken rfl rfl fun _ => rfl
  | blendLighten => exact blendFill_engine fnLighten rfl rfl fun _ => rfl
  | blendDodge => exact blendFill_engine fnDodge rfl rfl fun _ => rfl
  | blendBurn => exact blendFill_engine fnBurn rfl rfl fun _ => rfl
  | blendDifference => exact blendFill_engine fnDifference rfl rfl fun _ => rfl
  | blendExclusion => exact blendFill_engine fnExclusion rfl rfl fun _ => rfl
  | arith => exact arith_engine

/-- What a data command can do: it latches, then writes elements or faults; and in a state with the same memory and the
same inputs it does so too, whatever the other registers and the host's lists hold. -/
theorem exec_dataCommand {i : Instr} (hd : isDataCommand i = true) (s : State) :
    ∃ x : Except Fault State, exec i s = finish x ∧ (∀ t, x = .ok t → Writes (latched i s) t) ∧
      ∀ s', SameInputs i s s' → s'.mem = s.mem → exec i s' = finish (x.map (withRegs (latched i s'))) := by
  obtain ⟨G, hG⟩ := dataCommand_engine hd
  refine ⟨G s (latched i s), hG.exec_eq s, (hG.action s).writes (latched i s), fun s' h hm => ?_⟩
  have hlatched : latched i s' = withRegs (latched i s') (latched i s) :=
    (withRegs_eq_left (r := latched i s') (u := latched i s) hm h.params).symm
  rw [hG.exec_eq, hG.same s s' h, hlatched, (hG.action s).ignoresRegs, ← hlatched]

/-! ## Every command -/

theorem exec_subsurfOf (n : Slot) (s : State) : exec (subsurfOf n) s = .next (makeSub s n) := by
  cases n <;> rfl

theorem subsurfSlot_eq_some_iff {i : Instr} {n : Slot} : subsurfSlot i = some n ↔ i = subsurfOf n := by
  cases n <;> cases i <;> simp [subsurfSlot, subsurfOf]

/-- A command is `NOP`, `SUBSURF` or a data command (R36). -/
theorem command_kinds (i : Instr) : i = .nop ∨ (∃ n, i = subsurfOf n) ∨ isDataCommand i = true := by
  cases i with
  | nop => exact .inl rfl
  | subsurfS0 => exact .inr (.inl ⟨.s0, rfl⟩)
  | subsurfS1 => exact .inr (.inl ⟨.s1, rfl⟩)
  | subsurfS2 => exact .inr (.inl ⟨.s2, rfl⟩)
  | _ => exact .inr (.inr rfl)

/-- What a command that completes did. -/
theorem exec_cases {i : Instr} {s t : State} (h : exec i s = .next t) :
    (i = .nop ∧ t = s) ∨ (∃ n, i = subsurfOf n ∧ t = makeSub s n) ∨
      (isDataCommand i = true ∧ Writes (latched i s) t) := by
  rcases command_kinds i with rfl | ⟨n, rfl⟩ | hd
  · exact .inl ⟨rfl, (Host.Outcome.next.inj h).symm⟩
  · exact .inr (.inl ⟨n, rfl, (Host.Outcome.next.inj ((exec_subsurfOf n s).symm.trans h)).symm⟩)
  · obtain ⟨x, hx, hw, -⟩ := exec_dataCommand hd s
    exact .inr (.inr ⟨hd, hw t (finish_eq_next.mp (hx.symm.trans h))⟩)

/-- No command writes `STATUS`, the host's lists or the parameters. -/
theorem exec_keeps {i : Instr} {s t : State} (h : exec i s = .next t) :
    t.status = s.status ∧ t.pending = s.pending ∧ t.replies = s.replies ∧ t.params = s.params := by
  rcases exec_cases h with ⟨-, rfl⟩ | ⟨n, -, rfl⟩ | ⟨-, hw⟩
  · exact ⟨rfl, rfl, rfl, rfl⟩
  · simp [makeSub]
  · rw [hw.frame]
    exact ⟨rfl, rfl, rfl, rfl⟩

end Sys2Proof.Proofs.Commands
end

section
/-! SUPPORT. The statements of `10_state.md` about commands and steps: which registers a command uses (R27, R36, R37,
R43), the exception's registers (R34, R35), and what every step keeps. -/

namespace Sys2Proof.Proofs.Steps

open Sys2Proof.Machine Sys2Proof.Proofs.Registers Sys2Proof.Proofs.Commands

/-! ## Registers a command uses -/

theorem writesReg_dataCommand {i : Instr} {r : Reg} (hd : isDataCommand i = true) (h : writesReg i r = true) :
    r = .effdim ∨ (r = .lastk ∧ writesReg i .lastk = true) := by
  cases r with
  | effdim => exact .inl rfl
  | lastk => exact .inr ⟨rfl, h⟩
  | base n | dim n =>
    obtain rfl := subsurfSlot_eq_some_iff.mp (eq_of_beq h)
    cases n <;> simp [isDataCommand, usedSlots, subsurfOf] at hd
  | _ => simp [writesReg] at h

theorem writesReg_subsurfOf {n : Slot} {r : Reg} : writesReg (subsurfOf n) r = true ↔ r = .base n ∨ r = .dim n := by
  have hslot : subsurfSlot (subsurfOf n) = some n := subsurfSlot_eq_some_iff.mpr rfl
  cases r with
  | base k | dim k => simpa [writesReg, hslot] using eq_comm
  | _ => cases n <;> simp [writesReg, subsurfOf, isDataCommand, usedSlots]

theorem regRead_latched {i : Instr} {r : Reg} (hd : isDataCommand i = true) (h : writesReg i r = false) (s : State) :
    regRead (latched i s) r = regRead s r := by
  cases r with
  | effdim => simp [writesReg, hd] at h
  | lastk => simp [regRead, latched, lastkAfter, h]
  | _ => rfl

/-- A command changes no register but those it is listed to write (R43). -/
theorem exec_regRead_of_not_writes {i : Instr} {s t : State} (h : exec i s = .next t) {r : Reg}
    (hr : writesReg i r = false) : regRead t r = regRead s r := by
  rcases exec_cases h with ⟨-, rfl⟩ | ⟨n, rfl, rfl⟩ | ⟨hd, hw⟩
  · rfl
  · have hne : ¬(r = .base n ∨ r = .dim n) := fun hrn => by simp [writesReg_subsurfOf.mpr hrn] at hr
    exact regRead_setSlot (fun hb => absurd (.inl hb) hne) (fun hb => absurd (.inr hb) hne) fun _ => rfl
  · rw [hw.regRead r, regRead_latched hd hr s]

theorem makeSub_of_sameInputs {n : Slot} {s s' : State} (h : SameInputs (subsurfOf n) s s') :
    makeSub s' n =
      s'.setSlot n (subsurfRegs (s.slot n) (sint32 s.subX) (sint32 s.subY) (sint32 s.subW) (sint32 s.subH)) := by
  have hslot : subsurfSlot (subsurfOf n) = some n := subsurfSlot_eq_some_iff.mpr rfl
  have hX : s'.subX = s.subX := h.reads .subX (by simp [readsReg, hslot])
  have hY : s'.subY = s.subY := h.reads .subY (by simp [readsReg, hslot])
  have hW : s'.subW = s.subW := h.reads .subW (by simp [readsReg, hslot])
  have hH : s'.subH = s.subH := h.reads .subH (by simp [readsReg, hslot])
  rw [makeSub, h.slot (.inr hslot), hX, hY, hW, hH]

theorem regRead_latched_congr {i : Instr} {s s' : State} (h : SameInputs i s s') {r : Reg}
    (hd : isDataCommand i = true) (hr : writesReg i r = true) :
    regRead (latched i s') r = regRead (latched i s) r := by
  rcases writesReg_dataCommand hd hr with rfl | ⟨rfl, hl⟩
  · simp only [regRead, latched, h.effSize]
  · simp only [regRead, latched, lastkAfter, hl, if_true, h.usedKernels]

/-- What a command writes depends on memory, the parameters and the registers it is listed to read (R43). -/
theorem exec_congr_of_sameInputs {i : Instr} {s t s' : State} (h : exec i s = .next t) (hm : s'.mem = s.mem)
    (hin : SameInputs i s s') :
    ∃ t', exec i s' = .next t' ∧ t'.mem = t.mem ∧ ∀ r, writesReg i r = true → regRead t' r = regRead t r := by
  rcases exec_cases h with ⟨rfl, rfl⟩ | ⟨n, rfl, rfl⟩ | ⟨hd, hw⟩
  · exact ⟨s', rfl, hm, fun r hr => by cases r <;> simp [writesReg, isDataCommand, usedSlots, subsurfSlot] at hr⟩
  · refine ⟨_, exec_subsurfOf n s', by simpa [makeSub] using hm, fun r hr => ?_⟩
    rw [makeSub_of_sameInputs hin, makeSub]
    rcases writesReg_subsurfOf.mp hr with rfl | rfl <;> simp [regRead]
  · obtain ⟨x, hx, -, hcongr⟩ := exec_dataCommand hd s
    obtain rfl := finish_eq_next.mp (hx.symm.trans h)
    refine ⟨_, hcongr s' hin hm, rfl, fun r hr => ?_⟩
    calc regRead (withRegs (latched i s') t) r = regRead (latched i s') r := by cases r <;> rfl
      _ = regRead (latched i s) r := regRead_latched_congr hin hd hr
      _ = regRead t r := (hw.regRead r).symm

/-- Settles O54: the frame by the three things a command can do, the dependence by `exec_congr_of_sameInputs`. -/
theorem commandsReadAndWriteOnlyTheListedRegisters : Obligations.CommandsReadAndWriteOnlyTheListedRegisters := by
  unfold Obligations.CommandsReadAndWriteOnlyTheListedRegisters
  intro i s t h
  obtain ⟨hstatus, hpending, hreplies, hparams⟩ := exec_keeps h
  exact ⟨fun r hr => exec_regRead_of_not_writes h hr, hstatus, hpending, hreplies, hparams,
    fun s' hm hp hreads => exec_congr_of_sameInputs h hm ⟨hp, hreads⟩⟩

/-! ## `EFFDIM` and `LASTK` -/

theorem dimWidth_packDim {lo : Nat} (h : lo < 2 ^ 16) (hi : Nat) : dimWidth (packDim lo hi) = lo := by
  have : (packDim lo hi).extractLsb' 0 16 = BitVec.ofNat 16 lo := BitVec.extractLsb'_append_eq_right
  rw [dimWidth, this, BitVec.toNat_ofNat, Nat.mod_eq_of_lt h]

theorem dimHeight_packDim {hi : Nat} (h : hi < 2 ^ 16) (lo : Nat) : dimHeight (packDim lo hi) = hi := by
  have : (packDim lo hi).extractLsb' 16 16 = BitVec.ofNat 16 hi := BitVec.extractLsb'_append_eq_left
  rw [dimHeight, this, BitVec.toNat_ofNat, Nat.mod_eq_of_lt h]

theorem surf_width_lt (s : State) (n : Slot) : (surf s n).width < 2 ^ 16 := BitVec.isLt _

theorem surf_height_lt (s : State) (n : Slot) : (surf s n).height < 2 ^ 16 := BitVec.isLt _

theorem usedSlots_cases (i : Instr) : usedSlots i = [] ∨ usedSlots i = [.s0, .s2] ∨ usedSlots i = [.s0, .s1, .s2] := by
  cases i <;> simp [usedSlots]

/-- The effective size is within every surface the command uses (R110). -/
theorem effSize_le {i : Instr} {n : Slot} (h : n ∈ usedSlots i) (s : State) :
    (effSize i s).1 ≤ (surf s n).width ∧ (effSize i s).2 ≤ (surf s n).height := by
  rcases usedSlots_cases i with hu | hu | hu <;> rw [hu] at h <;> simp only [effSize, hu, overlap]
  · simp at h
  · cases n <;> simp at h ⊢
  · cases n <;> simp

/-- The effective size fits `EFFDIM`'s two fields. -/
theorem effSize_lt (i : Instr) (s : State) : (effSize i s).1 < 2 ^ 16 ∧ (effSize i s).2 < 2 ^ 16 := by
  cases hu : usedSlots i with
  | nil => simp [effSize, hu]
  | cons n rest =>
    obtain ⟨hw, hh⟩ := effSize_le (n := n) (i := i) (by simp [hu]) s
    exact ⟨hw.trans_lt (surf_width_lt s n), hh.trans_lt (surf_height_lt s n)⟩

theorem capK_le (k : Int) (extent : Nat) : capK k extent ≤ 512 := by
  unfold capK Config.scratchCap
  split <;> omega

/-- No kernel is above the scratch window's capacity (R162). -/
theorem usedKernels_le (i : Instr) (s : State) : (usedKernels i s).1 ≤ 512 ∧ (usedKernels i s).2 ≤ 512 := by
  cases i <;> simp [usedKernels, capK_le]

/-- `LASTK` after a command that latches its kernels. -/
theorem lastkAfter_fields {i : Instr} (h : writesReg i .lastk = true) (s : State) :
    dimWidth (lastkAfter i s) = (usedKernels i s).1 ∧ dimHeight (lastkAfter i s) = (usedKernels i s).2 := by
  obtain ⟨hx, hy⟩ := usedKernels_le i s
  simp only [lastkAfter, h, if_true]
  exact ⟨dimWidth_packDim (by omega) _, dimHeight_packDim (by omega) _⟩

theorem writesReg_lastk_iff (i : Instr) : writesReg i .lastk = true ↔ i ∈ [Instr.boxh, .boxv, .boxhv, .gblur] := by
  simp [writesReg, or_assoc]

/-- `EFFDIM` after every command (R36). -/
theorem exec_effdim {i : Instr} {s t : State} (h : exec i s = .next t) :
    t.effdim = if isDataCommand i then packDim (effSize i s).1 (effSize i s).2 else s.effdim := by
  cases hd : isDataCommand i with
  | false => exact exec_regRead_of_not_writes h (r := .effdim) hd
  | true =>
    obtain ⟨x, hx, hw, -⟩ := exec_dataCommand hd s
    exact (hw t (finish_eq_next.mp (hx.symm.trans h))).regRead .effdim

/-- `LASTK` after every command (R37). -/
theorem exec_lastk {i : Instr} {s t : State} (h : exec i s = .next t) : t.lastk = lastkAfter i s := by
  rcases exec_cases h with ⟨rfl, rfl⟩ | ⟨n, rfl, rfl⟩ | ⟨-, hw⟩
  · rfl
  · cases n <;> rfl
  · exact hw.regRead .lastk

/-- Settles O55: a data command latches both registers before its accesses, and no access writes a register. -/
theorem effdimAndLastkReportTheCommand : Obligations.EffdimAndLastkReportTheCommand := by
  unfold Obligations.EffdimAndLastkReportTheCommand
  refine ⟨⟨rfl, rfl⟩, fun i s t h => ?_⟩
  rw [exec_effdim h, exec_lastk h, ← writesReg_lastk_iff]
  refine ⟨fun hd => ?_, fun hd => by simp [hd], fun hl => ?_, fun hl => by simp [lastkAfter, hl]⟩
  · obtain ⟨hwidth, hheight⟩ := effSize_lt i s
    rw [if_pos hd]
    exact ⟨dimWidth_packDim hwidth _, dimHeight_packDim hheight _, fun n hn => effSize_le hn s⟩
  · obtain ⟨hx, hy⟩ := lastkAfter_fields hl s
    obtain ⟨hx512, hy512⟩ := usedKernels_le i s
    exact ⟨hx, hy, hx ▸ hx512, hy ▸ hy512⟩

/-! ## Legal words -/

theorem pickSelector_eq_ok_iff (sub : Nat) (l : List Instr) : (∃ i, pickSelector sub l = .ok i) ↔ sub < l.length := by
  unfold pickSelector
  by_cases h : sub < l.length
  · simp [h]
  · simp [h]

/-- The fields of a word select a command exactly when `OPC` is legal and `SUB` in its range (R85). -/
theorem decodeFields_eq_ok_iff (opc : Byte) (sub : Nat) :
    (∃ i, decodeFields opc.toNat sub = .ok i) ↔ legalOpcs.contains opc = true ∧ sub < subCount opc := by
  by_cases h : opc ∈ legalOpcs
  · simp only [legalOpcs, List.mem_cons, List.not_mem_nil, or_false] at h
    rcases h with rfl | rfl | rfl | rfl | rfl | rfl | rfl | rfl | rfl | rfl | rfl | rfl | rfl | rfl <;>
      exact (pickSelector_eq_ok_iff sub _).trans (by simp [legalOpcs, subCount])
  · have hdec : decodeFields opc.toNat sub = .error .unknownOpcode := by
      simp only [legalOpcs, List.mem_cons, List.not_mem_nil, or_false, not_or, ← BitVec.toNat_inj,
        BitVec.toNat_ofNat] at h
      unfold decodeFields
      split <;> simp_all
    simp [hdec, h]

/-- A word names a command exactly when it is legal by the prose of R85. -/
theorem decode_eq_ok_iff (w : Word) : (∃ i, decode w = .ok i) ↔ wordLegal w = true := by
  unfold decode wordLegal rsvOk opcOk subOk
  split
  next h => simp [h, decodeFields_eq_ok_iff]
  next h => simpa using fun h' => absurd h' h

theorem decode_eq_error_iff (w : Word) : (∃ e, decode w = .error e) ↔ wordLegal w = false := by
  rw [← Bool.not_eq_true, ← decode_eq_ok_iff]
  cases decode w <;> simp

/-! ## The bits of `STATUS` -/

theorem illSet_statusRaise (st : Word) : illSet (statusRaise st) = true := by
  simp [illSet, statusRaise, illMask]

theorem illSet_statusWrite (st v : Word) : illSet (statusWrite st v) = (illSet st && !v.getLsbD 1) := by
  unfold statusWrite
  cases v.getLsbD 1 <;> simp [illSet, illMask]

theorem statusRead_eq_zero_iff (st : Word) : statusRead st = 0 ↔ illSet st = false := by
  have hmask : illMask = BitVec.twoPow 32 1 := rfl
  rw [statusRead, hmask, BitVec.and_twoPow, illSet]
  cases st.getLsbD 1 <;> decide

theorem statusRead_reserved (st : Word) : statusRead st &&& ~~~illMask = 0 := by
  simp [statusRead, BitVec.and_assoc]

/-- No bit but `ILL` is ever set (R34). -/
theorem statusRaise_reserved {st : Word} (h : st &&& ~~~illMask = 0) : statusRaise st &&& ~~~illMask = 0 := by
  rw [statusRaise, BitVec.and_or_distrib_right, h]
  decide

theorem statusWrite_reserved {st : Word} (h : st &&& ~~~illMask = 0) (v : Word) :
    statusWrite st v &&& ~~~illMask = 0 := by
  unfold statusWrite
  split
  · rw [BitVec.and_assoc, BitVec.and_self, h]
  · exact h

/-! ## What a step can do -/

/-- What an action of the host that completes does to the machine. -/
inductive HostAct : HostEvent → State → State → Prop
  /-- A legal word written to `CMD` runs its command (R82). -/
  | command {c i s t} (hi : decode c = .ok i) (h : exec i s = .next t) : HostAct (.wr 0x01 c) s t
  /-- Any other word written to `CMD` raises the exception (R241). -/
  | illegal {c s} (hc : wordLegal c = false) : HostAct (.wr 0x01 c) s (raiseIllegal s c)
  /-- A write of `STATUS` (R23, R242). -/
  | status {v s} : HostAct (.wr 0x02 v) s (writeStatus s v)
  /-- A write of a register of class `RW` (R23). -/
  | store {i v r s} (hr : regOfIndex i = some r) (ha : accessOf r = .rw) : HostAct (.wr i v) s (regStore s r v)
  /-- A write of a register of class `RO` or of a reserved index (R23, R25). -/
  | ignored {i v s} (ha : ∀ r, regOfIndex i = some r → accessOf r = .ro) : HostAct (.wr i v) s s
  /-- A read (R24). -/
  | read {i s} : HostAct (.rd i) s (hostReply s (indexRead s i))
  /-- The host writes an element that exists (R60). -/
  | poke {a v s} (ha : a < s.params.memElems) : HostAct (.poke a v) s (s.setElem a v)
  /-- The host reads an element that exists (R60). -/
  | peek {a s} (ha : a < s.params.memElems) : HostAct (.peek a) s (hostReply s (s.elem a))
  /-- Reset (R260). -/
  | reset {s} : HostAct .reset s (applyReset s)

theorem hostAct_of_hostWrite {i : RegIndex} {v : Word} {s t : State} (h : hostWrite i v s = .next t) :
    HostAct (.wr i v) s t := by
  rcases hostWrite_cases i v s with ⟨rfl, hw⟩ | ⟨rfl, hw⟩ | ⟨r, hr, ha, hw⟩ | ⟨ha, hw⟩ <;> rw [hw] at h
  · rw [runCommand_eq] at h
    cases hd : decode v with
    | ok i =>
      simp only [hd] at h
      exact .command hd h
    | error e =>
      simp only [hd] at h
      cases h
      exact .illegal ((decode_eq_error_iff v).mp ⟨e, hd⟩)
  · cases h
    exact .status
  · cases h
    exact .store hr ha
  · cases h
    exact .ignored ha

theorem hostAct_of_hostEvent {e : HostEvent} {s t : State} (h : hostEvent e s = .next t) : HostAct e s t := by
  cases e with
  | wr i v => exact hostAct_of_hostWrite h
  | rd i =>
    cases h
    exact .read
  | poke a v =>
    obtain ⟨ha, rfl⟩ := memWrite_eq_ok.mp (finish_eq_next.mp h)
    exact .poke ha
  | peek a =>
    obtain ⟨v, hread, ht⟩ := bind_eq_ok.mp (finish_eq_next.mp h)
    obtain ⟨ha, rfl⟩ := memRead_eq_ok.mp hread
    cases ht
    exact .peek ha
  | reset =>
    cases h
    exact .reset

/-- A step idles or performs the host's next action. -/
theorem step_cases {s t : State} (h : step s = .next t) :
    t = s ∨ ∃ e rest, s.pending = e :: rest ∧ HostAct e { s with pending := rest } t := by
  cases hp : s.pending with
  | nil =>
    simp only [step_eq, hp] at h
    cases h
    exact .inl rfl
  | cons e rest =>
    rw [step_of_pending hp] at h
    exact .inr ⟨e, rest, rfl, hostAct_of_hostEvent h⟩

/-! ## The parameters -/

theorem HostAct.params_eq {e : HostEvent} {s t : State} (h : HostAct e s t) : t.params = s.params := by
  cases h with
  | command _ h =>
    obtain ⟨-, -, -, hparams⟩ := exec_keeps h
    exact hparams
  | _ => simp

/-- Settles O59, by the actions a step can perform. -/
theorem noStepChangesAParameter : Obligations.NoStepChangesAParameter := by
  unfold Obligations.NoStepChangesAParameter
  intro s t h
  rcases step_cases h with rfl | ⟨e, rest, -, hact⟩
  · rfl
  · exact hact.params_eq

/-! ## The exception -/

/-- Settles O6: an illegal word raises the exception, which a host write of `STATUS` ends. -/
theorem illcmdKeepsTheFirstOffender : Obligations.IllcmdKeepsTheFirstOffender := by
  unfold Obligations.IllcmdKeepsTheFirstOffender
  refine ⟨⟨rfl, rfl, rfl⟩, fun s c rest hp hc => ?_⟩
  obtain ⟨e, he⟩ := (decode_eq_error_iff c).mpr hc
  have hstep : step s = .next (raiseIllegal { s with pending := rest } c) := by
    rw [step_of_pending hp]
    change runCommand c _ = _
    simp only [runCommand_eq, he]
  refine ⟨_, hstep, illSet_statusRaise _, fun hill => ?_, fun hill => ?_, fun v hv => ?_⟩
  · simp [hill]
  · simp [hill]
  · exact ⟨_, hostWrite_status v _, by simp [illSet_statusWrite, hv], rfl⟩

/-- `ILL` is set by an illegal word only, and cleared by a write of `STATUS` with bit 1 set or by reset only (R34). -/
theorem HostAct.ill_changes {e : HostEvent} {s t : State} (h : HostAct e s t) (hne : illSet s.status ≠ illSet t.status) :
    (illSet t.status = true ∧ ∃ c, e = .wr 0x01 c ∧ wordLegal c = false) ∨
      (illSet t.status = false ∧ ((∃ v, e = .wr 0x02 v ∧ v.getLsbD 1 = true) ∨ e = .reset)) := by
  cases h with
  | command _ h =>
    obtain ⟨hstatus, -⟩ := exec_keeps h
    exact absurd (congrArg illSet hstatus.symm) hne
  | illegal hc => exact .inl ⟨illSet_statusRaise _, _, rfl, hc⟩
  | @status v s =>
    simp only [writeStatus_status, illSet_statusWrite] at hne ⊢
    cases hv : v.getLsbD 1 with
    | false => exact absurd (by rw [hv, Bool.not_false, Bool.and_true]) hne
    | true => exact .inr ⟨by simp, .inl ⟨v, rfl, hv⟩⟩
  | reset => exact .inr ⟨by simp [illSet, State.reset], .inr rfl⟩
  | store | ignored | read | poke | peek => simp at hne

/-- A command has the same outcome whatever `STATUS` holds (R34). -/
theorem exec_withStatus {i : Instr} (s : State) (v : Word) :
    (∀ t, exec i s = .next t → exec i { s with status := v } = .next { t with status := v }) ∧
      ∀ f, exec i s = .fault f → exec i { s with status := v } = .fault f := by
  rcases command_kinds i with rfl | ⟨n, rfl⟩ | hd
  · refine ⟨fun t h => ?_, fun f h => by cases h⟩
    cases h
    rfl
  · simp only [exec_subsurfOf]
    refine ⟨fun t h => ?_, fun f h => by cases h⟩
    cases h
    cases n <;> rfl
  · obtain ⟨x, hx, hw, hcongr⟩ := exec_dataCommand hd s
    have hin : SameInputs i s { s with status := v } := by
      refine ⟨rfl, fun r hr => ?_⟩
      cases r with
      | status => simp [readsReg] at hr
      | _ => rfl
    rw [hx, hcongr _ hin rfl]
    refine ⟨fun t h => ?_, fun f h => ?_⟩
    · obtain rfl := finish_eq_next.mp h
      simp only [Except.map, finish, latched, lastkAfter, hin.effSize, hin.usedKernels]
      rw [(hw t rfl).frame]
      rfl
    · rw [finish_eq_fault.mp h]
      rfl

/-- Settles O7: `ILL` by the actions of a step (`HostAct.ill_changes`), the commands by `exec_withStatus`. -/
theorem illIsStickyAndIgnoredByCommands : Obligations.IllIsStickyAndIgnoredByCommands := by
  unfold Obligations.IllIsStickyAndIgnoredByCommands
  refine ⟨⟨rfl, rfl⟩, fun s => ⟨statusRead_reserved s.status, statusRead_eq_zero_iff s.status⟩,
    fun s t h hne => ?_, fun i s v => ?_⟩
  · rcases step_cases h with rfl | ⟨e, rest, hp, hact⟩
    · exact absurd rfl hne
    · rcases hact.ill_changes hne with ⟨ht, c, rfl, hc⟩ | ⟨ht, ⟨v, rfl, hv⟩ | rfl⟩
      · exact .inl ⟨ht, c, rest, hp, hc⟩
      · exact .inr ⟨ht, .inl ⟨v, rest, hp, hv⟩⟩
      · exact .inr ⟨ht, .inr ⟨rest, hp⟩⟩
  · obtain ⟨hnext, hfault⟩ := exec_withStatus (i := i) s v
    exact ⟨fun t h => ⟨(exec_keeps h).1, hnext t h⟩, hfault⟩

/-! ## The invariant -/

theorem runningMax_mono (raw : Nat → Byte) (i : Nat) :
    (Config.runningMax raw i).toNat ≤ (Config.runningMax raw (i + 1)).toNat := by
  rw [Config.runningMax]
  split
  · assumption
  · exact le_rfl

/-- A table made of free bytes is non-decreasing (R55, R137). -/
theorem gammaTable_rising (raw : Nat → Byte) : tableRising (Config.gammaTable raw) := fun i => by
  simpa [Config.gammaTable, Vector.get_eq_getElem] using runningMax_mono raw i.val

theorem params_wellFormed : Config.params.wellFormed :=
  ⟨gammaTable_rising Config.rawS2L, gammaTable_rising Config.rawL2S⟩

/-- Settles O58: memory is empty, the registers are 0, and the tables are running maxima. -/
theorem resetMeetsTheInvariant : Obligations.ResetMeetsTheInvariant := by
  unfold Obligations.ResetMeetsTheInvariant
  exact ⟨rfl, rfl, by decide, by decide, by decide, params_wellFormed⟩

theorem lastkAfter_le {s : State} (hx : dimWidth s.lastk ≤ 512) (hy : dimHeight s.lastk ≤ 512) (i : Instr) :
    dimWidth (lastkAfter i s) ≤ 512 ∧ dimHeight (lastkAfter i s) ≤ 512 := by
  cases hl : writesReg i .lastk with
  | false => simpa [lastkAfter, hl] using ⟨hx, hy⟩
  | true =>
    obtain ⟨hkx, hky⟩ := lastkAfter_fields hl s
    rw [hkx, hky]
    exact usedKernels_le i s

/-- A command keeps memory in its canonical form and inside its bounds. -/
theorem exec_mem_ok {i : Instr} {s t : State} (h : exec i s = .next t) (hwf : s.mem.wf = true)
    (hin : s.mem.within s.params.memElems = true) : t.mem.wf = true ∧ t.mem.within t.params.memElems = true := by
  rcases exec_cases h with ⟨-, rfl⟩ | ⟨n, -, rfl⟩ | ⟨-, hw⟩
  · exact ⟨hwf, hin⟩
  · simpa [makeSub] using ⟨hwf, hin⟩
  · exact hw.mem_ok hwf hin

theorem HostAct.keeps_inv {e : HostEvent} {s t : State} (h : HostAct e s t) (hs : Inv s) : Inv t := by
  obtain ⟨hwf, hin, hst, hx, hy, hp⟩ := hs
  cases h with
  | @command _ i _ _ _ h =>
    obtain ⟨hstatus, -, -, hparams⟩ := exec_keeps h
    obtain ⟨hwf', hin'⟩ := exec_mem_ok h hwf hin
    obtain ⟨hx', hy'⟩ := lastkAfter_le hx hy i
    exact ⟨hwf', hin', hstatus ▸ hst, exec_lastk h ▸ hx', exec_lastk h ▸ hy', hparams ▸ hp⟩
  | illegal _ => exact ⟨hwf, hin, statusRaise_reserved hst, hx, hy, hp⟩
  | @status v _ => exact ⟨hwf, hin, statusWrite_reserved hst v, hx, hy, hp⟩
  | store =>
    simp only [Machine.Inv, regStore_mem, regStore_params, regStore_status, regStore_lastk]
    exact ⟨hwf, hin, hst, hx, hy, hp⟩
  | poke ha => exact ⟨Memory.wf_setElem _ _ _ _ hwf, Memory.within_setElem _ _ _ _ _ hin ha, hst, hx, hy, hp⟩
  | reset =>
    obtain ⟨-, -, hst0, hx0, hy0, -⟩ := resetMeetsTheInvariant
    exact ⟨hwf, hin, hst0, hx0, hy0, hp⟩
  | ignored | read | peek => exact ⟨hwf, hin, hst, hx, hy, hp⟩

/-- Settles O57, by the actions a step can perform: commands write elements that exist and kernels capped at 512. -/
theorem everyStepKeepsTheInvariant : Obligations.EveryStepKeepsTheInvariant := by
  unfold Obligations.EveryStepKeepsTheInvariant
  intro s t hs h
  rcases step_cases h with rfl | ⟨e, rest, -, hact⟩
  · exact hs
  · exact hact.keeps_inv hs

end Sys2Proof.Proofs.Steps
end

section
/-! SUPPORT. Pixel memory (`20_memory.md` R60 to R63, R68): an element is the pixel of its four bytes, so a read returns
what a write stored; with the statements that speak of elements and addresses alone. -/

namespace Sys2Proof.Proofs.PixelMemory

open Sys2Proof.Machine

/-! ## Pixels and elements -/

/-- The four channels of an element stand side by side (R63). -/
@[simp] theorem pack_unpack (p : Word) : pack (unpack p) = p := by
  simp only [pack, unpack]
  ext i hi
  simp only [BitVec.getElem_append, BitVec.getElem_extractLsb']
  grind

theorem toNat_eq_channels (p : Word) :
    p.toNat = (unpack p).a.toNat * 2 ^ 24 + (unpack p).r.toNat * 2 ^ 16 + (unpack p).g.toNat * 2 ^ 8 +
      (unpack p).b.toNat := by
  have hp := p.isLt
  simp only [unpack, BitVec.extractLsb'_toNat, Nat.shiftRight_eq_div_pow]
  omega

/-- An element is the pixel of its four bytes, wherever the byte order puts them (R63, R64). -/
theorem elem_eq_pack (s : State) (e : Nat) :
    s.elem e =
      pack
        { a := s.byteAt (laneAddr s.params.byteOrder e 3)
          r := s.byteAt (laneAddr s.params.byteOrder e 2)
          g := s.byteAt (laneAddr s.params.byteOrder e 1)
          b := s.byteAt (laneAddr s.params.byteOrder e 0) } := rfl

/-! ## A read after a write -/

/-- The byte that an element write leaves at each of the element's four addresses. -/
theorem byteAt_setElem_lane (s : State) (e : Nat) (v : Word) {j : Nat} (hj : j < 4) :
    (s.setElem e v).byteAt (laneAddr s.params.byteOrder e j) = v.extractLsb' (8 * j) 8 := by
  have same : ∀ k < 4, laneAddr s.params.byteOrder e j = laneAddr s.params.byteOrder e k ↔ j = k := fun k hk =>
    ⟨laneAddr_inj _ e j k hj hk, fun h => h ▸ rfl⟩
  simp only [State.byteAt, State.setElem_mem, Memory.read?_setElem, same 0, same 1, same 2, same 3, Nat.reduceLT]
  interval_cases j <;> rfl

@[simp] theorem elem_setElem_same (s : State) (e : Nat) (v : Word) : (s.setElem e v).elem e = v := by
  rw [elem_eq_pack, State.setElem_params, byteAt_setElem_lane s e v (j := 3) (by decide),
    byteAt_setElem_lane s e v (j := 2) (by decide), byteAt_setElem_lane s e v (j := 1) (by decide),
    byteAt_setElem_lane s e v (j := 0) (by decide)]
  exact pack_unpack v

theorem elem_setElem_other (s : State) {e e' : Nat} (v : Word) (h : e' ≠ e) :
    (s.setElem e v).elem e' = s.elem e' := by
  have lane : ∀ j < 4, (s.setElem e v).byteAt (laneAddr s.params.byteOrder e' j) =
      s.byteAt (laneAddr s.params.byteOrder e' j) := fun j hj =>
    byteAt_setElem_other s e v _ (by rwa [laneAddr_div _ _ _ hj])
  rw [elem_eq_pack, elem_eq_pack, State.setElem_params, lane 3 (by decide), lane 2 (by decide), lane 1 (by decide),
    lane 0 (by decide)]

/-! ## The statements -/

/-- Settles O19: the channels are the bytes of the word's base-256 expansion. -/
theorem pixelLayoutIsArgb : Obligations.PixelLayoutIsArgb := by
  unfold Obligations.PixelLayoutIsArgb
  exact fun p q => ⟨toNat_eq_channels p, pack_unpack p, unpack_pack q⟩

/-- Settles O17: the base and the stride are below `2^32`, so the sum is below `2^32 + 65534 * 2^32 + 65534`. -/
theorem addressesDoNotWrap : Obligations.AddressesDoNotWrap := by
  unfold Obligations.AddressesDoNotWrap
  intro s n x y
  have haddr : (surf s n).addr x y = (s.slot n).base.toNat + y * (s.slot n).stride.toNat + x := rfl
  refine ⟨haddr, fun hx hy => ?_⟩
  have hbase := (s.slot n).base.isLt
  have hrows : y * (s.slot n).stride.toNat ≤ 65534 * (2 ^ 32 - 1) :=
    Nat.mul_le_mul hy (Nat.le_pred_of_lt (s.slot n).stride.isLt)
  omega

/-- Settles O15, by what an element reads after a write of it and of another. -/
theorem memReadReturnsWhatMemWriteStored : Obligations.MemReadReturnsWhatMemWriteStored := by
  unfold Obligations.MemReadReturnsWhatMemWriteStored
  intro s e v he
  exact ⟨memRead_eq_ok.mpr ⟨he, rfl⟩, s.setElem e v, memWrite_eq_ok.mpr ⟨he, rfl⟩, rfl, elem_setElem_same s e v,
    memRead_eq_ok.mpr ⟨he, (elem_setElem_same s e v).symm⟩, fun _ h => elem_setElem_other s v h⟩

/-- Settles O16: the host's accesses are `memWrite` and `memRead`, which complete or fault by the bound on elements. -/
theorem hostReachesPixelMemoryByElements : Obligations.HostReachesPixelMemoryByElements := by
  unfold Obligations.HostReachesPixelMemoryByElements
  intro s e v
  refine ⟨fun he => ⟨⟨s.setElem e v, ?_, rfl, elem_setElem_same s e v, byteAt_setElem_other s e v⟩, ?_⟩, fun he => ?_⟩
  · exact finish_eq_next.mpr (memWrite_eq_ok.mpr ⟨he, rfl⟩)
  · exact finish_eq_next.mpr (bind_eq_ok.mpr ⟨_, memRead_eq_ok.mpr ⟨he, rfl⟩, rfl⟩)
  · have hread : memRead s e = .error (.outsidePixelMemory e) := memRead_eq_error.mpr ⟨he, rfl⟩
    have hwrite : memWrite s e v = .error (.outsidePixelMemory e) := memWrite_eq_error.mpr ⟨he, rfl⟩
    exact ⟨hread, hwrite, finish_eq_fault.mpr hwrite, finish_eq_fault.mpr (bind_eq_error.mpr (.inl hread))⟩

end Sys2Proof.Proofs.PixelMemory
end

section
/-! SUPPORT. Which elements a routine of the machine touches (`20_memory.md` R62, R64, R68). The elements it accesses
and those it writes are settled before it runs. It completes exactly when all that it accesses exist, leaves every byte
outside the elements it writes, and does the same under the other byte order. -/

namespace Sys2Proof.Proofs.Regions

open Sys2Proof.Machine Sys2Proof.Proofs.Commands Sys2Proof.Proofs.PixelMemory

/-! ## Writes within a set of elements -/

/-- `t` is `s` after some writes of elements of `W`. -/
def WritesIn (W : Set Nat) : State → State → Prop :=
  Relation.ReflTransGen fun u v => ∃ e ∈ W, ∃ w, v = u.setElem e w

theorem WritesIn.single {W : Set Nat} {e : Nat} (he : e ∈ W) (s : State) (w : Word) : WritesIn W s (s.setElem e w) :=
  Relation.ReflTransGen.single ⟨e, he, w, rfl⟩

theorem WritesIn.mono {V W : Set Nat} {s t : State} (h : WritesIn V s t) (hVW : V ⊆ W) : WritesIn W s t :=
  Relation.ReflTransGen.mono (fun _ _ ⟨e, he, hw⟩ => ⟨e, hVW he, hw⟩) s t h

theorem WritesIn.params {W : Set Nat} {s t : State} (h : WritesIn W s t) : t.params = s.params := by
  induction h with
  | refl => rfl
  | tail _ hw ih =>
    obtain ⟨e, -, w, rfl⟩ := hw
    exact ih

theorem WritesIn.byteAt {W : Set Nat} {s t : State} (h : WritesIn W s t) {a : Nat} (ha : a / 4 ∉ W) :
    t.byteAt a = s.byteAt a := by
  induction h with
  | refl => rfl
  | tail _ hw ih =>
    obtain ⟨e, he, w, rfl⟩ := hw
    exact (byteAt_setElem_other _ e w a fun hae => ha (hae ▸ he)).trans ih

theorem WritesIn.eq_of_empty {s t : State} (h : WritesIn ∅ s t) : t = s := by
  induction h with
  | refl => rfl
  | tail _ hw _ =>
    obtain ⟨e, he, -⟩ := hw
    exact absurd he (Set.notMem_empty e)

/-! ## Two machines alike but for the byte order -/

/-- `s` with other bytes in memory, read in another byte order. -/
def reordered (s : State) (m : Memory) (o : ByteOrder) : State :=
  { s with mem := m, params := { s.params with byteOrder := o } }

/-- The machines differ in byte order and bytes alone, and hold the same elements. -/
structure Alike (s s' : State) : Prop where
  eq_reordered : s' = reordered s s'.mem s'.params.byteOrder
  elems : ∀ e < s.params.memElems, s'.elem e = s.elem e

theorem Alike.memElems {s s' : State} (h : Alike s s') : s'.params.memElems = s.params.memElems := by
  rw [h.eq_reordered]
  rfl

/-- Both machines write the same element. -/
theorem Alike.setElem {s s' : State} (h : Alike s s') (e : Nat) (v : Word) :
    Alike (s.setElem e v) (s'.setElem e v) where
  eq_reordered := by
    rw [h.eq_reordered]
    rfl
  elems e' he' := by
    by_cases hee : e' = e
    · rw [hee, elem_setElem_same, elem_setElem_same]
    · rw [elem_setElem_other s' v hee, elem_setElem_other s v hee, h.elems e' he']

/-! ## The elements a routine touches -/

/-- A routine over `σ`, in which `view` is the machine's state and `put` replaces it: it accesses the elements of `T`
and no other, stopping at one that does not exist; it writes elements of `W`; and it does the same to machines alike
but for the byte order. -/
structure Touches {σ : Type} (view : σ → State) (put : State → σ → σ) (T W : Set Nat) (g : σ → Except Fault σ) :
    Prop where
  inside : ∀ x y, g x = .ok y → ∀ a ∈ T, a < (view x).params.memElems
  faults : ∀ x f, g x = .error f → ∃ a ∈ T, (view x).params.memElems ≤ a ∧ f = .outsidePixelMemory a
  writes : ∀ x y, g x = .ok y → WritesIn W (view x) (view y)
  alike : ∀ x y s', g x = .ok y → Alike (view x) s' → ∃ t', g (put s' x) = .ok (put t' y) ∧ Alike (view y) t'

namespace Touches

variable {σ : Type} {view : σ → State} {put : State → σ → σ} {f g : σ → Except Fault σ} {T T' W W' : Set Nat}

theorem ok : Touches view put ∅ ∅ .ok where
  inside _ _ _ _ ha := absurd ha (Set.notMem_empty _)
  faults _ _ h := by cases h
  writes x y h := by
    cases h
    exact .refl
  alike x y s' h hs := by
    cases h
    exact ⟨s', rfl, hs⟩

theorem congr_sets (hg : Touches view put T W g) (hT : T = T') (hW : W = W') : Touches view put T' W' g :=
  hT ▸ hW ▸ hg

theorem bind (hf : Touches view put T W f) (hg : Touches view put T' W' g) :
    Touches view put (T ∪ T') (W ∪ W') fun x => (f x).bind g where
  inside x y h a ha := by
    obtain ⟨z, hz, hy⟩ := bind_eq_ok.mp h
    rcases ha with ha | ha
    · exact hf.inside x z hz a ha
    · exact (hf.writes x z hz).params ▸ hg.inside z y hy a ha
  faults x e h := by
    rcases bind_eq_error.mp h with h | ⟨z, hz, h⟩
    · obtain ⟨a, ha, hout⟩ := hf.faults x e h
      exact ⟨a, .inl ha, hout⟩
    · obtain ⟨a, ha, hout⟩ := hg.faults z e h
      exact ⟨a, .inr ha, (hf.writes x z hz).params ▸ hout⟩
  writes x y h := by
    obtain ⟨z, hz, hy⟩ := bind_eq_ok.mp h
    exact ((hf.writes x z hz).mono Set.subset_union_left).trans ((hg.writes z y hy).mono Set.subset_union_right)
  alike x y s' h hs := by
    obtain ⟨z, hz, hy⟩ := bind_eq_ok.mp h
    obtain ⟨u, hu, hzu⟩ := hf.alike x z s' hz hs
    obtain ⟨t, ht, hyt⟩ := hg.alike z y u hy hzu
    exact ⟨t, bind_eq_ok.mpr ⟨_, hu, ht⟩, hyt⟩

/-- A routine that runs only under a condition touches nothing when the condition fails. -/
theorem guarded {c : Prop} [Decidable c] (hf : Touches view put T W f) :
    Touches view put {a | c ∧ a ∈ T} {a | c ∧ a ∈ W} fun x => if c then f x else .ok x := by
  by_cases h : c
  · simpa only [h, if_true, true_and, Set.ofPred_mem_eq] using hf
  · simpa only [h, if_false, false_and, Set.ofPred_false] using ok

theorem ite {c : Prop} [Decidable c] (hf : c → Touches view put T W f) (hg : ¬c → Touches view put T W g) :
    Touches view put T W fun x => if c then f x else g x := by
  by_cases h : c
  · simpa only [h, if_true] using hf h
  · simpa only [h, if_false] using hg h

/-- A loop touches what its iterations touch. -/
theorem forRange {body : Nat → σ → Except Fault σ} {T W : Nat → Set Nat}
    (h : ∀ i, Touches view put (T i) (W i) (body i)) (start count : Nat) :
    Touches view put (⋃ i ∈ Set.Ico start (start + count), T i) (⋃ i ∈ Set.Ico start (start + count), W i)
      (forRange body start count) := by
  induction count generalizing start with
  | zero => exact ok.congr_sets (by simp) (by simp)
  | succ n ih =>
    have hIco : Set.Ico start (start + (n + 1)) = insert start (Set.Ico (start + 1) (start + 1 + n)) := by
      rw [Set.insert_Ico_add_one_left_eq_Ico (by omega), add_right_comm, add_assoc]
    rw [hIco, Set.biUnion_insert, Set.biUnion_insert]
    exact (h start).bind (ih (start + 1))

end Touches

/-! ## Regions -/

/-- The elements of the region of a surface, `d.1` wide and `d.2` high. -/
def region (S : Surface) (d : Nat × Nat) : Set Nat := {a | ∃ x < d.1, ∃ y < d.2, S.addr x y = a}

theorem mem_region {S : Surface} {d : Nat × Nat} {a : Nat} : a ∈ region S d ↔ ∃ x < d.1, ∃ y < d.2, S.addr x y = a :=
  .rfl

theorem region_empty {S : Surface} {d : Nat × Nat} (h : d.1 = 0 ∨ d.2 = 0) : region S d = ∅ := by
  ext a
  rcases h with h | h <;> simp [mem_region, h]

/-! ## The routines over pixels -/

/-- A routine over the machine's state. -/
abbrev StateTouches (T W : Set Nat) (g : State → Except Fault State) : Prop := Touches id (fun s _ => s) T W g

theorem mapPixel_touches (A B : Surface) (f : Word → Word) (x y : Nat) :
    StateTouches {A.addr x y, B.addr x y} {B.addr x y} (mapPixel A B f x y) where
  inside s t h a ha := by
    obtain ⟨hA, hB, -⟩ := mapPixel_eq_ok.mp h
    rcases ha with rfl | rfl
    · exact hA
    · exact hB
  faults s e h := by
    rcases bind_eq_error.mp h with h | ⟨v, -, h⟩
    · exact ⟨_, .inl rfl, memRead_eq_error.mp h⟩
    · exact ⟨_, .inr rfl, memWrite_eq_error.mp h⟩
  writes s t h := by
    obtain ⟨-, -, rfl⟩ := mapPixel_eq_ok.mp h
    exact .single (Set.mem_singleton _) s _
  alike s t s' h hs := by
    obtain ⟨hA, hB, rfl⟩ := mapPixel_eq_ok.mp h
    exact ⟨_, mapPixel_eq_ok.mpr ⟨hs.memElems ▸ hA, hs.memElems ▸ hB, rfl⟩, hs.elems _ hA ▸ hs.setElem _ _⟩

theorem zipPixel_touches (A B C : Surface) (f : Word → Word → Word) (x y : Nat) :
    StateTouches {A.addr x y, B.addr x y, C.addr x y} {C.addr x y} (zipPixel A B C f x y) where
  inside s t h a ha := by
    obtain ⟨hA, hB, hC, -⟩ := zipPixel_eq_ok.mp h
    rcases ha with rfl | rfl | rfl
    · exact hA
    · exact hB
    · exact hC
  faults s e h := by
    rcases bind_eq_error.mp h with h | ⟨v, -, h⟩
    · exact ⟨_, .inl rfl, memRead_eq_error.mp h⟩
    · rcases bind_eq_error.mp h with h | ⟨w, -, h⟩
      · exact ⟨_, .inr (.inl rfl), memRead_eq_error.mp h⟩
      · exact ⟨_, .inr (.inr rfl), memWrite_eq_error.mp h⟩
  writes s t h := by
    obtain ⟨-, -, -, rfl⟩ := zipPixel_eq_ok.mp h
    exact .single (Set.mem_singleton _) s _
  alike s t s' h hs := by
    obtain ⟨hA, hB, hC, rfl⟩ := zipPixel_eq_ok.mp h
    exact ⟨_, zipPixel_eq_ok.mpr ⟨hs.memElems ▸ hA, hs.memElems ▸ hB, hs.memElems ▸ hC, rfl⟩,
      hs.elems _ hA ▸ hs.elems _ hB ▸ hs.setElem _ _⟩

/-- The rows of a region, and the pixels of each row, make up the region. -/
theorem iUnion_rows (T : Nat → Nat → Set Nat) (w h : Nat) :
    (⋃ y ∈ Set.Ico 0 (0 + h), ⋃ x ∈ Set.Ico 0 (0 + w), T x y) = {a | ∃ x < w, ∃ y < h, a ∈ T x y} := by
  ext a
  simp only [Set.mem_iUnion, Set.mem_Ico, Set.mem_ofPred_eq]
  grind

/-- A pixel loop touches what its pixels touch. -/
theorem pixelLoop_touches {body : Nat → Nat → State → Except Fault State} {T W : Nat → Nat → Set Nat}
    (hbody : ∀ x y, StateTouches (T x y) (W x y) (body x y)) (w h : Nat) :
    StateTouches {a | ∃ x < w, ∃ y < h, a ∈ T x y} {a | ∃ x < w, ∃ y < h, a ∈ W x y} (pixelLoop w h body) :=
  (Touches.forRange (fun y => .forRange (fun x => hbody x y) 0 w) 0 h).congr_sets (iUnion_rows T w h)
    (iUnion_rows W w h)

theorem region_eq_singletons (S : Surface) (d : Nat × Nat) :
    {a | ∃ x < d.1, ∃ y < d.2, a ∈ ({S.addr x y} : Set Nat)} = region S d := by
  simp only [Set.mem_singleton_iff, region, eq_comm]

theorem mapLoop_touches (A B : Surface) (f : Word → Word) (d : Nat × Nat) :
    StateTouches (region A d ∪ region B d) (region B d) (pixelLoop d.1 d.2 (mapPixel A B f)) := by
  refine (pixelLoop_touches (mapPixel_touches A B f) d.1 d.2).congr_sets ?_ (region_eq_singletons B d)
  ext a
  simp only [region, Set.mem_union, Set.mem_insert_iff, Set.mem_singleton_iff, Set.mem_ofPred_eq]
  grind

theorem zipLoop_touches (A B C : Surface) (f : Word → Word → Word) (d : Nat × Nat) :
    StateTouches (region A d ∪ region B d ∪ region C d) (region C d) (pixelLoop d.1 d.2 (zipPixel A B C f)) := by
  refine (pixelLoop_touches (zipPixel_touches A B C f) d.1 d.2).congr_sets ?_ (region_eq_singletons C d)
  ext a
  simp only [region, Set.mem_union, Set.mem_insert_iff, Set.mem_singleton_iff, Set.mem_ofPred_eq]
  grind

theorem copyRegion_touches (A B : Surface) (d : Nat × Nat) :
    StateTouches (region A d ∪ region B d) (region B d) (copyRegion A B d.1 d.2) :=
  mapLoop_touches A B _ d

/-! ## The box filter -/

/-- A part of the line routine of the box filter. -/
abbrev LineTouches (T W : Set Nat) (g : Line → Except Fault Line) : Prop :=
  Touches Line.st (fun s L => { L with st := s }) T W g

theorem loadPixel_touches (src : Nat → Nat) (k i : Nat) : LineTouches {src i} ∅ (loadPixel src k i) where
  inside L M h a ha := by
    obtain ⟨hsrc, -⟩ := loadPixel_eq_ok.mp h
    exact Set.mem_singleton_iff.mp ha ▸ hsrc
  faults L e h := by
    rcases bind_eq_error.mp h with h | ⟨v, -, h⟩
    · exact ⟨_, rfl, memRead_eq_error.mp h⟩
    · cases h
  writes L M h := by
    obtain ⟨-, rfl⟩ := loadPixel_eq_ok.mp h
    exact .refl
  alike L M s' h hs := by
    obtain ⟨hsrc, rfl⟩ := loadPixel_eq_ok.mp h
    exact ⟨s', loadPixel_eq_ok.mpr ⟨hs.memElems ▸ hsrc, by rw [← hs.elems _ hsrc]; rfl⟩, hs⟩

theorem emit_touches (dst : Nat → Nat) (k c : Nat) : LineTouches {dst c} {dst c} (emit dst k c) where
  inside L M h a ha := by
    obtain ⟨hdst, -⟩ := emit_eq_ok.mp h
    exact Set.mem_singleton_iff.mp ha ▸ hdst
  faults L e h := by
    rcases bind_eq_error.mp h with h | ⟨t, -, h⟩
    · exact ⟨_, rfl, memWrite_eq_error.mp h⟩
    · cases h
  writes L M h := by
    obtain ⟨-, rfl⟩ := emit_eq_ok.mp h
    exact .single (Set.mem_singleton _) L.st _
  alike L M s' h hs := by
    obtain ⟨hdst, rfl⟩ := emit_eq_ok.mp h
    exact ⟨_, emit_eq_ok.mpr ⟨hs.memElems ▸ hdst, rfl⟩, hs.setElem _ _⟩

/-- Evicting a slot of the scratch window touches no element. -/
theorem evict_first {g : Line → Except Fault Line} {T W : Set Nat} (hg : LineTouches T W g) (slot : Nat) :
    LineTouches T W fun L => g (evict slot L) where
  inside L := hg.inside (evict slot L)
  faults L := hg.faults (evict slot L)
  writes L := hg.writes (evict slot L)
  alike L := hg.alike (evict slot L)

/-- The elements that iteration `i` of a line writes, when `c` holds: that of the pixel half a kernel behind. -/
def emitted (dst : Nat → Nat) (k i : Nat) (c : Prop) : Set Nat := {a | c ∧ a ∈ ({dst (i - k / 2)} : Set Nat)}

theorem fillStep_touches (src dst : Nat → Nat) (k n i : Nat) :
    LineTouches ({src i} ∪ emitted dst k i (k / 2 ≤ i ∧ i - k / 2 < n))
      (∅ ∪ emitted dst k i (k / 2 ≤ i ∧ i - k / 2 < n))
      (fillStep src dst k n i) :=
  (loadPixel_touches src k i).bind (emit_touches dst k _).guarded

theorem steadyStep_touches (src dst : Nat → Nat) (k i : Nat) :
    LineTouches ({src i} ∪ {dst (i - k / 2)}) (∅ ∪ {dst (i - k / 2)}) (steadyStep src dst k i) :=
  evict_first ((loadPixel_touches src k i).bind (emit_touches dst k _)) (i % k)

theorem drainStep_touches (dst : Nat → Nat) (k n i : Nat) :
    LineTouches (emitted dst k i (i - k / 2 < n)) (emitted dst k i (i - k / 2 < n)) (drainStep dst k n i) :=
  evict_first (emit_touches dst k _).guarded (i % k)

/-- The phases of a line load each of its pixels. -/
theorem loads_eq (src : Nat → Nat) {k n : Nat} (hk : k ≤ n) :
    ((⋃ i ∈ Set.Ico 0 (0 + k), {src i}) ∪ ⋃ i ∈ Set.Ico k (k + (n - k)), {src i}) = {a | ∃ i < n, src i = a} := by
  ext a
  simp only [Set.mem_union, Set.mem_iUnion, Set.mem_Ico, Set.mem_singleton_iff, Set.mem_ofPred_eq]
  grind

/-- The phases of a line emit each of its pixels: pixel `c` in iteration `c + k / 2`, whichever phase that is in. -/
theorem emits_eq (dst : Nat → Nat) {k n : Nat} (hk : k ≤ n) :
    ((⋃ i ∈ Set.Ico 0 (0 + k), emitted dst k i (k / 2 ≤ i ∧ i - k / 2 < n)) ∪
      ((⋃ i ∈ Set.Ico k (k + (n - k)), {dst (i - k / 2)}) ∪
        ⋃ i ∈ Set.Ico n (n + k), emitted dst k i (i - k / 2 < n))) = {a | ∃ c < n, dst c = a} := by
  ext a
  simp only [emitted, Set.mem_union, Set.mem_iUnion, Set.mem_Ico, Set.mem_singleton_iff, Set.mem_ofPred_eq]
  constructor
  · rintro (⟨i, -, ⟨-, hc⟩, rfl⟩ | ⟨i, hi, rfl⟩ | ⟨i, -, hc, rfl⟩)
    · exact ⟨_, hc, rfl⟩
    · exact ⟨_, by omega, rfl⟩
    · exact ⟨_, hc, rfl⟩
  · rintro ⟨c, hc, rfl⟩
    have hi : c + k / 2 - k / 2 = c := Nat.add_sub_cancel ..
    rcases Nat.lt_or_ge (c + k / 2) k with hfill | hfill
    · exact .inl ⟨c + k / 2, by omega, by omega, by rw [hi]⟩
    · rcases Nat.lt_or_ge (c + k / 2) n with hsteady | hdrain
      · exact .inr (.inl ⟨c + k / 2, by omega, by rw [hi]⟩)
      · exact .inr (.inr ⟨c + k / 2, by omega, by omega, by rw [hi]⟩)

/-- With a kernel no longer than the line (R162), the line routine loads and emits the pixels of the line. -/
theorem linePhases_touches (src dst : Nat → Nat) {k n : Nat} (hk : k ≤ n) :
    LineTouches ({a | ∃ i < n, src i = a} ∪ {a | ∃ c < n, dst c = a}) {a | ∃ c < n, dst c = a}
      (linePhases src dst k n) := by
  have phases := (Touches.forRange (fillStep_touches src dst k n) 0 k).bind
    ((Touches.forRange (steadyStep_touches src dst k) k (n - k)).bind
      (Touches.forRange (drainStep_touches dst k n) n k))
  refine phases.congr_sets ?_ ?_
  · simp only [← loads_eq src hk, ← emits_eq dst hk, Set.iUnion_union_distrib]
    ac_rfl
  · simp only [← emits_eq dst hk, Set.empty_union]

theorem boxLine_eq_bind (src dst : Nat → Nat) (k n : Nat) (s : State) :
    boxLine src dst k n s = (linePhases src dst k n (startLine s)).bind fun L => .ok L.st := by
  rw [boxLine_eq]
  cases linePhases src dst k n (startLine s) <;> rfl

theorem boxLine_touches (src dst : Nat → Nat) {k n : Nat} (hk : k ≤ n) :
    StateTouches ({a | ∃ i < n, src i = a} ∪ {a | ∃ c < n, dst c = a}) {a | ∃ c < n, dst c = a}
      (boxLine src dst k n) := by
  have hline := linePhases_touches src dst hk
  have completes : ∀ {s t}, boxLine src dst k n s = .ok t →
      ∃ L, linePhases src dst k n (startLine s) = .ok L ∧ L.st = t := fun {s t} h => by
    rw [boxLine_eq_bind, bind_eq_ok] at h
    simpa only [Except.ok.injEq] using h
  refine ⟨fun s t h => ?_, fun s e h => ?_, fun s t h => ?_, fun s t s' h hs => ?_⟩
  · obtain ⟨L, hL, -⟩ := completes h
    exact hline.inside (startLine s) L hL
  · rcases bind_eq_error.mp (boxLine_eq_bind src dst k n s ▸ h) with h | ⟨L, -, h⟩
    · exact hline.faults (startLine s) e h
    · cases h
  · obtain ⟨L, hL, rfl⟩ := completes h
    exact hline.writes (startLine s) L hL
  · obtain ⟨L, hL, rfl⟩ := completes h
    obtain ⟨t', ht', halike⟩ := hline.alike (startLine s) L s' hL hs
    exact ⟨t', (boxLine_eq_bind src dst k n s').trans (bind_eq_ok.mpr ⟨_, ht', rfl⟩), halike⟩

/-- A loop of lines touches the two regions that the lines make up, whichever way the lines run. -/
theorem boxLines_touches {A B : Surface} {d : Nat × Nat} {k n count : Nat} {src dst : Nat → Nat → Nat} (hk : k ≤ n)
    (hA : ∀ a, a ∈ region A d ↔ ∃ l < count, ∃ i < n, src l i = a)
    (hB : ∀ a, a ∈ region B d ↔ ∃ l < count, ∃ i < n, dst l i = a) :
    StateTouches (region A d ∪ region B d) (region B d) (forRange (fun l => boxLine (src l) (dst l) k n) 0 count) := by
  refine (Touches.forRange (fun l => boxLine_touches (src l) (dst l) hk) 0 count).congr_sets ?_ ?_
  · ext a
    simp only [Set.mem_union, hA, hB, Set.mem_iUnion, Set.mem_Ico, Set.mem_ofPred_eq]
    grind
  · ext a
    simp only [hB, Set.mem_iUnion, Set.mem_Ico, Set.mem_ofPred_eq]
    grind

theorem rowPass_touches (A B : Surface) {k : Nat} {d : Nat × Nat} (hk : k ≤ d.1) :
    StateTouches (region A d ∪ region B d) (region B d) (rowPass A B k d.1 d.2) :=
  .ite (fun _ => copyRegion_touches A B d) fun _ => boxLines_touches hk
    (fun a => by rw [mem_region]; grind) (fun a => by rw [mem_region]; grind)

theorem colPass_touches (A B : Surface) {k : Nat} {d : Nat × Nat} (hk : k ≤ d.2) :
    StateTouches (region A d ∪ region B d) (region B d) (colPass A B k d.1 d.2) :=
  .ite (fun _ => copyRegion_touches A B d) fun _ => boxLines_touches hk (fun _ => .rfl) (fun _ => .rfl)

theorem boxStep_touches (A B : Surface) {k d : Nat × Nat} (hx : k.1 ≤ d.1) (hy : k.2 ≤ d.2) :
    StateTouches (region A d ∪ region B d) (region B d) (boxStep A B k.1 k.2 d.1 d.2) :=
  ((rowPass_touches A B hx).bind (colPass_touches B B hy)).congr_sets
    (by rw [Set.union_self, Set.union_assoc, Set.union_self]) (Set.union_self _)

theorem threeSteps_touches (A B : Surface) {k d : Nat × Nat} (hx : k.1 ≤ d.1) (hy : k.2 ≤ d.2) :
    StateTouches (region A d ∪ region B d) (region B d) (threeSteps A B k.1 k.2 d.1 d.2) :=
  have again := boxStep_touches B B hx hy
  ((boxStep_touches A B hx hy).bind (again.bind again)).congr_sets
    (by simp only [Set.union_self, Set.union_assoc]) (by simp only [Set.union_self])

end Sys2Proof.Proofs.Regions
end

section
/-! SUPPORT. What a command does to pixel memory (`20_memory.md` R62, R64, R68), once for all 31: a data command touches
the effective regions of the slots it uses and writes that of S2; with the statements that follow. -/

namespace Sys2Proof.Proofs.CommandRegions

open Sys2Proof.Machine Sys2Proof.Proofs.Commands Sys2Proof.Proofs.Steps Sys2Proof.Proofs.Regions

/-! ## The regions of a command -/

/-- The elements of the effective regions of the slots that a command uses (R68, R110). -/
def touched (i : Instr) (s : State) : Set Nat := {a | ∃ n ∈ usedSlots i, a ∈ region (surf s n) (effSize i s)}

theorem inMemory_iff {i : Instr} {s : State} : InMemory i s ↔ ∀ a ∈ touched i s, a < s.params.memElems := by
  constructor
  · rintro h a ⟨n, hn, x, hx, y, hy, rfl⟩
    exact h n hn x hx y hy
  · intro h n hn x hx y hy
    exact h _ ⟨n, hn, x, hx, y, hy, rfl⟩

theorem touched_oneInput {i : Instr} (hu : usedSlots i = [.s0, .s2]) (s : State) :
    touched i s = region (surf s .s0) (effSize i s) ∪ region (surf s .s2) (effSize i s) := by
  ext a
  simp [touched, hu]

theorem touched_twoInput {i : Instr} (hu : usedSlots i = [.s0, .s1, .s2]) (s : State) :
    touched i s =
      region (surf s .s0) (effSize i s) ∪ region (surf s .s1) (effSize i s) ∪ region (surf s .s2) (effSize i s) := by
  ext a
  simp [touched, hu, or_assoc]

/-! ## What the byte order cannot change -/

section
variable (s : State) (m : Memory) (o : ByteOrder)

@[simp] theorem surf_reordered (n : Slot) : surf (reordered s m o) n = surf s n := by
  cases n <;> rfl

@[simp] theorem effSize_reordered (i : Instr) : effSize i (reordered s m o) = effSize i s := by
  have hsurf : surf (reordered s m o) = surf s := funext (surf_reordered s m o)
  simp only [effSize, hsurf]

@[simp] theorem usedKernels_reordered (i : Instr) : usedKernels i (reordered s m o) = usedKernels i s := by
  cases i <;> simp only [usedKernels, effSize_reordered] <;> rfl

theorem latched_reordered (i : Instr) : latched i (reordered s m o) = reordered (latched i s) m o := by
  simp only [latched, lastkAfter, effSize_reordered, usedKernels_reordered]
  rfl

theorem makeSub_reordered (n : Slot) : makeSub (reordered s m o) n = reordered (makeSub s n) m o := by
  cases n <;> rfl

end

/-- Changing registers alone, to the same values on both machines, keeps them alike. -/
theorem alike_of_registers {s s' t t' : State} (h : Alike s s') (hmem : t.mem = s.mem) (hparams : t.params = s.params)
    (ht : t' = reordered t s'.mem s'.params.byteOrder) : Alike t t' := by
  have same : ∀ {u v : State}, u.mem = v.mem → u.params = v.params → ∀ e, u.elem e = v.elem e := fun hm hp e => by
    simp only [State.elem, State.byteAt, hm, hp]
  have hparams' : t'.params = s'.params := by
    rw [ht, h.eq_reordered]
    simp only [reordered, hparams]
  have hmem' : t'.mem = s'.mem := by rw [ht]; rfl
  refine ⟨by rwa [hmem', hparams'], fun e he => ?_⟩
  rw [same hmem' hparams', same hmem hparams, h.elems e (hparams ▸ he)]

theorem alike_latched {s s' : State} (h : Alike s s') (i : Instr) : Alike (latched i s) (latched i s') :=
  alike_of_registers h rfl rfl (by rw [← latched_reordered, ← h.eq_reordered])

theorem alike_makeSub {s s' : State} (h : Alike s s') (n : Slot) : Alike (makeSub s n) (makeSub s' n) :=
  alike_of_registers h (by simp [makeSub]) (by simp [makeSub])
    (by rw [← makeSub_reordered, ← h.eq_reordered])

/-! ## Data commands -/

/-- A data command latches, then performs accesses that touch the effective regions of its slots and write that of S2;
which accesses is independent of the byte order. -/
structure RegionEngine (i : Instr) (G : State → State → Except Fault State) : Prop where
  touches : ∀ s, StateTouches (touched i s) (region (surf s .s2) (effSize i s)) (G s)
  anyOrder : ∀ s m o, G (reordered s m o) = G s
  exec_eq : ∀ s, exec i s = finish (G s (latched i s))

section
variable {i : Instr}

theorem oneInput_regionEngine {F : State → Word → Word} (hu : usedSlots i = [.s0, .s2])
    (hb : writesReg i .lastk = false) (hexec : ∀ s, exec i s = oneInput (F s) s)
    (hF : ∀ s m o, F (reordered s m o) = F s) : ∃ G, RegionEngine i G := by
  have hsize : ∀ s, sizeOne s = effSize i s := fun s => by simp only [effSize, hu]; rfl
  refine ⟨fun s => pixelLoop (effSize i s).1 (effSize i s).2 (mapPixel (surf s .s0) (surf s .s2) (F s)),
    fun s => ?_, fun s m o => ?_, fun s => ?_⟩
  · exact touched_oneInput hu s ▸ mapLoop_touches _ _ _ _
  · simp only [effSize_reordered, surf_reordered, hF]
  · rw [hexec, oneInput, hsize, latched_eq_latchSize hb]

theorem twoInput_regionEngine {F : State → Word → Word → Word} (hu : usedSlots i = [.s0, .s1, .s2])
    (hb : writesReg i .lastk = false) (hexec : ∀ s, exec i s = twoInput (F s) s)
    (hF : ∀ s m o, F (reordered s m o) = F s) : ∃ G, RegionEngine i G := by
  have hsize : ∀ s, sizeTwo s = effSize i s := fun s => by simp only [effSize, hu]; rfl
  refine ⟨fun s => pixelLoop (effSize i s).1 (effSize i s).2
      (zipPixel (surf s .s0) (surf s .s1) (surf s .s2) (F s)),
    fun s => ?_, fun s m o => ?_, fun s => ?_⟩
  · exact touched_twoInput hu s ▸ zipLoop_touches _ _ _ _ _
  · simp only [effSize_reordered, surf_reordered, hF]
  · rw [hexec, twoInput, hsize, latched_eq_latchSize hb]

theorem capK_le_extent (k : Int) (extent : Nat) : capK k extent ≤ extent := by
  unfold capK
  split <;> omega

/-- No kernel is longer than the lines it filters (R162). -/
theorem usedKernels_le_effSize (i : Instr) (s : State) :
    (usedKernels i s).1 ≤ (effSize i s).1 ∧ (usedKernels i s).2 ≤ (effSize i s).2 := by
  cases i <;> simp [usedKernels, capK_le_extent]

/-- A command that filters S0 into S2 with the kernels used, `G` the routine it picks. -/
theorem blur_regionEngine {G : State → Surface → Surface → Nat × Nat → Nat × Nat → State → Except Fault State}
    (hu : usedSlots i = [.s0, .s2])
    (hexec : ∀ s, exec i s = finish (G s (surf s .s0) (surf s .s2) (usedKernels i s) (effSize i s) (latched i s)))
    (hG : ∀ s A B (k d : Nat × Nat), k.1 ≤ d.1 → k.2 ≤ d.2 →
      StateTouches (region A d ∪ region B d) (region B d) (G s A B k d))
    (horder : ∀ s m o, G (reordered s m o) = G s) : ∃ G, RegionEngine i G := by
  refine ⟨_, fun s => ?_, fun s m o => ?_, hexec⟩
  · obtain ⟨hx, hy⟩ := usedKernels_le_effSize i s
    exact touched_oneInput hu s ▸ hG s _ _ _ _ hx hy
  · simp only [horder, surf_reordered, usedKernels_reordered, effSize_reordered]

end

/-- The routine of `GBLUR`: it copies or filters by the deviations, before the kernels are capped (R173). -/
def gblurRoutine (s : State) (A B : Surface) (k d : Nat × Nat) (t : State) : Except Fault State :=
  if kernelFromStd s.stdX ≤ 0 ∧ kernelFromStd s.stdY ≤ 0 then copyRegion A B d.1 d.2 t
  else threeSteps A B k.1 k.2 d.1 d.2 t

theorem exec_gblur (s : State) :
    exec .gblur s = finish (gblurRoutine s (surf s .s0) (surf s .s2) (usedKernels .gblur s) (effSize .gblur s)
      (latched .gblur s)) := by
  have hlatch : latched .gblur s = latchKernels s (capK (kernelFromStd s.stdX) (sizeOne s).1)
      (capK (kernelFromStd s.stdY) (sizeOne s).2) := rfl
  change execGblur s = _
  rw [execGblur, gblurRoutine, apply_ite finish]
  refine ite_congr rfl (fun hcopy => ?_) fun _ => rfl
  rw [hlatch, capK_of_nonpos hcopy.1, capK_of_nonpos hcopy.2]
  rfl

/-- Every data command touches the effective regions of its slots and writes that of S2. -/
theorem dataCommand_regionEngine {i : Instr} (hd : isDataCommand i = true) : ∃ G, RegionEngine i G := by
  cases i with
  | nop | subsurfS0 | subsurfS1 | subsurfS2 => exact absurd hd (by decide)
  | boxh =>
    exact blur_regionEngine (G := fun _ A B k d => rowPass A B k.1 d.1 d.2) rfl (fun _ => rfl)
      (fun _ A B _ _ hx _ => rowPass_touches A B hx) fun _ _ _ => rfl
  | boxv =>
    exact blur_regionEngine (G := fun _ A B k d => colPass A B k.2 d.1 d.2) rfl (fun _ => rfl)
      (fun _ A B _ _ _ hy => colPass_touches A B hy) fun _ _ _ => rfl
  | boxhv =>
    exact blur_regionEngine (G := fun _ A B k d => boxStep A B k.1 k.2 d.1 d.2) rfl (fun _ => rfl)
      (fun _ A B _ _ hx hy => boxStep_touches A B hx hy) fun _ _ _ => rfl
  | gblur =>
    exact blur_regionEngine rfl exec_gblur
      (fun _ A B _ d hx hy => .ite (fun _ => copyRegion_touches A B d) fun _ => threeSteps_touches A B hx hy)
      fun _ _ _ => rfl
  | copy | cmx | lum2a | s2l | l2s => exact oneInput_regionEngine rfl rfl (fun _ => rfl) fun _ _ _ => rfl
  | _ => exact twoInput_regionEngine rfl rfl (fun _ => rfl) fun _ _ _ => rfl

/-! ## Every command -/

theorem usedSlots_subsurfOf (n : Slot) : usedSlots (subsurfOf n) = [] := by
  cases n <;> rfl

/-- Two machines alike but for the byte order stay so (R64). -/
theorem exec_alike {i : Instr} {s s' t : State} (hs : Alike s s') (h : exec i s = .next t) :
    ∃ t', exec i s' = .next t' ∧ Alike t t' := by
  rcases command_kinds i with rfl | ⟨n, rfl⟩ | hd
  · cases h
    exact ⟨s', rfl, hs⟩
  · rw [exec_subsurfOf] at h
    cases h
    exact ⟨_, exec_subsurfOf n s', alike_makeSub hs n⟩
  · obtain ⟨G, hG⟩ := dataCommand_regionEngine hd
    have hsame : G s' = G s := by rw [hs.eq_reordered, hG.anyOrder]
    rw [hG.exec_eq, finish_eq_next] at h
    obtain ⟨t', ht', halike⟩ := (hG.touches s).alike _ t _ h (alike_latched hs i)
    exact ⟨t', by rw [hG.exec_eq, hsame, finish_eq_next]; exact ht', halike⟩

/-- A command stops at an element it touches that does not exist, and completes if there is none (R68). -/
theorem exec_outcome (i : Instr) (s : State) :
    (InMemory i s ∧ ∃ t, exec i s = .next t) ∨
      (¬ InMemory i s ∧ ∃ a, s.params.memElems ≤ a ∧ exec i s = .fault (.outsidePixelMemory a)) := by
  rcases command_kinds i with rfl | ⟨n, rfl⟩ | hd
  · exact .inl ⟨by simp [InMemory, usedSlots], s, rfl⟩
  · exact .inl ⟨by simp [InMemory, usedSlots_subsurfOf], _, exec_subsurfOf n s⟩
  · obtain ⟨G, hG⟩ := dataCommand_regionEngine hd
    rw [inMemory_iff, hG.exec_eq]
    cases hx : G s (latched i s) with
    | ok t => exact .inl ⟨(hG.touches s).inside (latched i s) t hx, t, rfl⟩
    | error f =>
      obtain ⟨a, ha, hout, rfl⟩ := (hG.touches s).faults (latched i s) f hx
      exact .inr ⟨fun hin => (hin a ha).not_ge hout, a, hout, rfl⟩

/-! ## The statements -/

/-- Settles O18: the commands keep two machines alike (`exec_alike`), and change no parameter. -/
theorem byteOrderIsNotObservable : Obligations.ByteOrderIsNotObservable := by
  unfold Obligations.ByteOrderIsNotObservable
  intro i s s' t hs helems h
  obtain ⟨t', ht', halike⟩ := exec_alike ⟨hs, helems⟩ h
  obtain ⟨-, -, -, hparams⟩ := exec_keeps h
  obtain ⟨-, -, -, hparams'⟩ := exec_keeps ht'
  exact ⟨t', ht', hparams ▸ halike.elems, hparams' ▸ halike.eq_reordered⟩

/-- Settles O53, by the two outcomes of a command (`exec_outcome`). -/
theorem commandsCompleteExactlyInsideMemory : Obligations.CommandsCompleteExactlyInsideMemory := by
  unfold Obligations.CommandsCompleteExactlyInsideMemory
  intro i s
  rcases exec_outcome i s with ⟨hin, hnext⟩ | ⟨hout, hfault⟩
  · exact ⟨fun _ => hnext, fun hout => absurd hin hout⟩
  · exact ⟨fun hin => absurd hin hout, fun _ => hfault⟩

/-- Settles O56: `NOP` and `SUBSURF` write no byte, and a data command writes elements of S2's effective region. -/
theorem commandsWriteOnlyTheOutputRegion : Obligations.CommandsWriteOnlyTheOutputRegion := by
  unfold Obligations.CommandsWriteOnlyTheOutputRegion
  intro i s t h
  rcases command_kinds i with rfl | ⟨n, rfl⟩ | hd
  · cases h
    exact ⟨fun _ _ => rfl, fun _ => rfl⟩
  · rw [exec_subsurfOf] at h
    cases h
    have hmem : (makeSub s n).mem = s.mem := by simp [makeSub]
    exact ⟨fun a _ => by simp only [State.byteAt, hmem], fun _ => hmem⟩
  · obtain ⟨G, hG⟩ := dataCommand_regionEngine hd
    rw [hG.exec_eq, finish_eq_next] at h
    have hw : WritesIn (region (surf s .s2) (effSize i s)) (latched i s) t := (hG.touches s).writes _ t h
    refine ⟨fun a ha => hw.byteAt fun ⟨x, hx, y, hy, hxy⟩ => ha x hx y hy hxy.symm, fun hempty => ?_⟩
    rw [region_empty hempty] at hw
    rw [hw.eq_of_empty]
    rfl

end Sys2Proof.Proofs.CommandRegions
end

section
/-! SUPPORT. The decoder and the encoder (`30_encoding.md` R80 to R85): what decoding answers, once for all words; with
the statements that speak of words alone. -/

namespace Sys2Proof.Proofs.Encoding

/-! ## The fields of a word (R80) -/

theorem fields_eq_word (w : Word) : wordRsv w ++ (wordSub w ++ wordOpc w) = w := by
  have low : wordSub w ++ wordOpc w = w.extractLsb' 0 12 := BitVec.extractLsb'_append_extractLsb'_eq_extractLsb' rfl
  rw [low]
  exact (BitVec.extractLsb'_append_extractLsb'_eq_extractLsb' rfl).trans BitVec.extractLsb'_eq_self

/-! ## The rows of R83's table -/

/-- `l` lists the commands of `opc` in the order of their selectors. -/
structure Row (opc : Byte) (l : List Instr) : Prop where
  legal : opc ∈ legalOpcs
  length : l.length = subCount opc
  word : ∀ k (h : k < l.length), encode l[k] = (0 : BitVec 20) ++ (BitVec.ofNat 4 k ++ opc)

/-- Either no command has this `OPC`, or `SUB` picks one of its row. -/
theorem decodeFields_cases (opc : Byte) (sub : Nat) :
    (opc ∉ legalOpcs ∧ decodeFields opc.toNat sub = .error .unknownOpcode) ∨
      ∃ l, Row opc l ∧ decodeFields opc.toNat sub = pickSelector sub l := by
  by_cases h : opc ∈ legalOpcs
  · right
    simp only [legalOpcs, List.mem_cons, List.not_mem_nil, or_false] at h
    rcases h with rfl | rfl | rfl | rfl | rfl | rfl | rfl | rfl | rfl | rfl | rfl | rfl | rfl | rfl <;>
      exact ⟨_, ⟨by decide, rfl, by decide⟩, rfl⟩
  · refine .inl ⟨h, ?_⟩
    simp only [legalOpcs, List.mem_cons, List.not_mem_nil, or_false, not_or, ← BitVec.toNat_inj,
      BitVec.toNat_ofNat] at h
    unfold decodeFields
    split <;> simp_all

/-! ## What decoding a word can answer -/

/-- The four answers, in the order in which the fields are looked at (R85; log 22). -/
inductive Decoded (w : Word) : Prop
  | reservedBits (hr : rsvOk w = false) (h : decode w = .error .reservedBits)
  | unknownOpcode (hr : rsvOk w = true) (ho : opcOk w = false) (h : decode w = .error .unknownOpcode)
  | badSelector (hr : rsvOk w = true) (ho : opcOk w = true) (hs : subOk w = false) (h : decode w = .error .badSelector)
  | command (hr : rsvOk w = true) (ho : opcOk w = true) (hs : subOk w = true) (i : Instr) (h : decode w = .ok i)
      (hw : encode i = w)

theorem decode_cases (w : Word) : Decoded w := by
  by_cases hz : wordRsv w = 0
  case neg => exact .reservedBits (by simpa [rsvOk] using hz) (if_neg hz)
  have hr : rsvOk w = true := by simpa [rsvOk] using hz
  have hdec : decode w = decodeFields (wordOpc w).toNat (wordSub w).toNat := if_pos hz
  obtain ⟨hout, h⟩ | ⟨l, hrow, h⟩ := decodeFields_cases (wordOpc w) (wordSub w).toNat <;> rw [h] at hdec
  · exact .unknownOpcode hr (by simpa [opcOk] using hout) hdec
  · have ho : opcOk w = true := by simpa [opcOk] using hrow.legal
    by_cases hlt : (wordSub w).toNat < l.length
    · refine .command hr ho (by simpa [subOk, ← hrow.length] using hlt) l[(wordSub w).toNat] ?_ ?_
      · simp [hdec, pickSelector, hlt]
      · calc encode l[(wordSub w).toNat] = wordRsv w ++ (wordSub w ++ wordOpc w) := by
              rw [hrow.word _ hlt, BitVec.ofNat_toNat, BitVec.setWidth_eq, hz]
          _ = w := fields_eq_word w
    · refine .badSelector hr ho (by simpa [subOk, ← hrow.length] using hlt) ?_
      simp [hdec, pickSelector, hlt]

theorem decode_encode (i : Instr) : decode (encode i) = .ok i := by
  cases i <;> rfl

theorem encode_of_decode {w : Word} {i : Instr} (h : decode w = .ok i) : encode i = w := by
  cases decode_cases w with
  | command _ _ _ j hj hw =>
    obtain rfl := Except.ok.inj (hj.symm.trans h)
    exact hw
  | reservedBits _ h' | unknownOpcode _ _ h' | badSelector _ _ _ h' => simp [h'] at h

/-! ## The statements about words -/

/-- Settles O1: the encoder is the decoder's inverse on both sides. -/
theorem decodeReadsExactlyTheEncodings : Obligations.DecodeReadsExactlyTheEncodings := by
  unfold Obligations.DecodeReadsExactlyTheEncodings
  exact fun w i => ⟨fun h => (encode_of_decode h).symm, fun h => h ▸ decode_encode i⟩

/-- Settles O2, by the four answers of the decoder. -/
theorem rejectedWordsAreThoseOfTheProse : Obligations.RejectedWordsAreThoseOfTheProse := by
  unfold Obligations.RejectedWordsAreThoseOfTheProse
  intro w
  refine ⟨Steps.decode_eq_error_iff w, ?_⟩
  cases decode_cases w with
  | reservedBits hr h => simp [hr, h]
  | unknownOpcode hr ho h => simp [hr, ho, h]
  | badSelector hr ho hs h => simp [hr, ho, hs, h]
  | command hr ho hs i h => simp [hr, ho, hs, h]

/-- Settles O3: each row holds the word of its command, and the three illegal words are decoded. -/
theorem specWordsDecodeAsTheTableSays : Obligations.SpecWordsDecodeAsTheTableSays := by
  unfold Obligations.SpecWordsDecodeAsTheTableSays
  refine ⟨fun r hr => ?_, rfl, rfl, rfl⟩
  have rows : r.1 = encode r.2 := by revert r; decide
  rw [rows, decode_encode]

end Sys2Proof.Proofs.Encoding
end

section
/-! SUPPORT. What the host's writes do in a run (`30_encoding.md` R82, R86, R91): a write of `CMD`, of a register of class
`RW` and of `STATUS`, and the pseudo-instructions made of them. -/

namespace Sys2Proof.Proofs.Transactions

open Sys2Proof.Machine Sys2Proof.Proofs.Registers

/-! ## One write -/

/-- A write of a register of class `RW` stores its value there, and no other register reads otherwise (R23). -/
theorem step_writeTo {s : State} {r : Reg} {v : Word} {rest : List HostEvent} (hp : s.pending = writeTo r v :: rest)
    (ha : accessOf r = .rw) :
    ∃ t, step s = .next t ∧ t.pending = rest ∧ t.mem = s.mem ∧ regRead t r = v ∧
      ∀ r', r' ≠ r → regRead t r' = regRead s r' := by
  have hstep : step s = .next (regStore { s with pending := rest } r v) :=
    (step_of_pending hp).trans (hostWrite_rw (regOfIndex_regIndex r) ha v _)
  exact ⟨_, hstep, by simp, by simp, regRead_regStore_same _ v ha,
    fun r' h => (regRead_regStore_other _ v h).trans (regRead_pending s rest r')⟩

theorem run_succ_of_step {s t : State} (h : step s = .next t) (k : Nat) :
    Sys2Proof.core.run (k + 1) s = Sys2Proof.core.run k t := by
  have hcore : Sys2Proof.core.step s = .next t := h
  simp only [Host.Core.run, hcore]

/-! ## Surfaces -/

/-- The surface of a slot is what its three registers read (R33). -/
theorem surf_eq_regRead (s : State) (n : Slot) :
    surf s n = { base := (regRead s (.base n)).toNat, width := dimWidth (regRead s (.dim n)),
                 height := dimHeight (regRead s (.dim n)), stride := (regRead s (.stride n)).toNat } := rfl

/-- The word that `SURF` writes to `Sn_DIM` holds the width below the height (R33, R91). -/
theorem surfDim_eq_packDim {width height : Nat} (hw : width < 2 ^ 16) (hh : height < 2 ^ 16) :
    BitVec.ofNat 32 (height <<< 16 ||| width) = packDim width height := by
  have value : (packDim width height).toNat = height <<< 16 ||| width := by
    refine (BitVec.toNat_append _ _).trans ?_
    rw [BitVec.toNat_ofNat, BitVec.toNat_ofNat, Nat.mod_eq_of_lt hw, Nat.mod_eq_of_lt hh]
  rw [← value, BitVec.ofNat_toNat, BitVec.setWidth_eq]

/-- The three writes of `SURF`, one after the other (R91, R116). -/
theorem run_surf {s : State} {n : Slot} {base dim stride : Word}
    (hp : s.pending = [writeTo (.base n) base, writeTo (.dim n) dim, writeTo (.stride n) stride]) :
    ∃ t, Sys2Proof.core.run 3 s = .next t ∧ t.pending = [] ∧ t.mem = s.mem ∧
      surf t n = { base := base.toNat, width := dimWidth dim, height := dimHeight dim, stride := stride.toNat } := by
  obtain ⟨s₁, step₁, hp₁, mem₁, base₁, -⟩ := step_writeTo hp rfl
  obtain ⟨s₂, step₂, hp₂, mem₂, dim₂, other₂⟩ := step_writeTo hp₁ rfl
  obtain ⟨s₃, step₃, hp₃, mem₃, stride₃, other₃⟩ := step_writeTo hp₂ rfl
  have hbase : regRead s₃ (.base n) = base := by rw [other₃ _ (by simp), other₂ _ (by simp), base₁]
  have hdim : regRead s₃ (.dim n) = dim := by rw [other₃ _ (by simp), dim₂]
  refine ⟨s₃, ?_, hp₃, by rw [mem₃, mem₂, mem₁], by rw [surf_eq_regRead, hbase, hdim, stride₃]⟩
  rw [run_succ_of_step step₁, run_succ_of_step step₂, run_succ_of_step step₃]
  rfl

/-! ## The statements about transactions -/

/-- Settles O4: the write of `CMD` is `runCommand`, which goes by the decoder's answer. -/
theorem stepRunsTheDecodedCommand : Obligations.StepRunsTheDecodedCommand := by
  unfold Obligations.StepRunsTheDecodedCommand
  refine fun s c rest => ⟨fun hp => ?_, fun hp => by simp only [step_eq, hp]⟩
  have hstep : step s = runCommand c { s with pending := rest } := step_of_pending hp
  exact ⟨fun i hi => by simp only [hstep, runCommand_eq, hi], fun e he => by simp only [hstep, runCommand_eq, he]⟩

/-- Settles O60: the writes of `SURF` leave their values in the slot's registers (`run_surf`), and `CLRILL` is a write of
`STATUS`. -/
theorem surfAndClrillStatements : Obligations.SurfAndClrillStatements := by
  unfold Obligations.SurfAndClrillStatements
  refine ⟨fun s n base stride width height hw hh hp => ?_, fun s hp => (step_of_pending hp).trans (hostWrite_status _ _)⟩
  have hw16 : width < 2 ^ 16 := by omega
  have hh16 : height < 2 ^ 16 := by omega
  have hexWord : ∀ w : Word, literalWord (.hex w.toNat) = w := fun w => by simp [literalWord]
  simp only [expand, hexWord, surfDim_eq_packDim hw16 hh16] at hp
  obtain ⟨t, hrun, hpending, hmem, hsurf⟩ := run_surf hp
  rw [Steps.dimWidth_packDim hw16, Steps.dimHeight_packDim hh16] at hsurf
  exact ⟨t, hrun, hpending, hmem, hsurf⟩

end Sys2Proof.Proofs.Transactions
end

section
/-! SUPPORT. The codec of a channel (`40_surface_codec.md` R101 to R105): premultiplication and its inverse, and the
two clamps to a byte; with the statements that speak of channels alone. -/

namespace Sys2Proof.Proofs.Codec

open Sys2Proof.Machine Sys2Proof.Proofs.Float

/-! ## Premultiplication -/

/-- The product of a channel and `a + 1` is below `2^16`, so the formula's byte loses nothing (R101). -/
theorem premul_toNat (c a : Byte) : (premul c a).toNat = c.toNat * (a.toNat + 1) / 256 := by
  have hprod : c.toNat * (a.toNat + 1) ≤ 255 * 256 := Nat.mul_le_mul (Nat.le_of_lt_succ c.isLt) a.isLt
  rw [premul, BitVec.toNat_ofNat]
  omega

theorem premul_opaque (c : Byte) : premul c 255 = c :=
  BitVec.eq_of_toNat_eq <| (premul_toNat c 255).trans (Nat.mul_div_cancel _ (by decide))

theorem premul_transparent (c : Byte) : premul c 0 = 0 :=
  BitVec.eq_of_toNat_eq <| (premul_toNat c 0).trans (Nat.div_eq_of_lt (by simpa using c.isLt))

theorem unpremul_transparent (c : Byte) : unpremul c 0 = 0 := rfl

theorem unpremul_of_ne_zero (c : Byte) {a : Byte} (ha : a ≠ 0) : unpremul c a = 255 * c.toNat / a.toNat :=
  if_neg (BitVec.toNat_ne.mp ha)

theorem unpremul_le (c a : Byte) : unpremul c a ≤ 65025 := by
  by_cases ha : a = 0
  · rw [ha, unpremul_transparent]
    exact Nat.zero_le _
  · calc unpremul c a = 255 * c.toNat / a.toNat := unpremul_of_ne_zero c ha
      _ ≤ 255 * c.toNat := Nat.div_le_self _ _
      _ ≤ 65025 := by omega

/-- The quotient exceeds a byte exactly where the channel exceeds alpha, a pixel that is not canonical (R105). -/
theorem unpremul_le_255_iff (c : Byte) {a : Byte} (ha : a ≠ 0) : unpremul c a ≤ 255 ↔ c.toNat ≤ a.toNat := by
  have hpos : 0 < a.toNat := Nat.pos_of_ne_zero (BitVec.toNat_ne.mp ha)
  rw [unpremul_of_ne_zero c ha, ← Nat.lt_succ_iff, Nat.div_lt_iff_lt_mul hpos]
  omega

theorem unpremul_opaque (c : Byte) : unpremul c 255 = c.toNat :=
  (unpremul_of_ne_zero c (by decide)).trans (Nat.mul_div_cancel_left _ (by decide))

/-- Settles O20, clause by clause; the round trip is `premul_opaque` and then `unpremul_opaque`. -/
theorem premultiplyAndUnpremultiply : Obligations.PremultiplyAndUnpremultiply := by
  unfold Obligations.PremultiplyAndUnpremultiply
  intro c a
  exact ⟨premul_toNat c a, premul_opaque c, premul_transparent c, fun ha => ha ▸ unpremul_transparent c,
    unpremul_of_ne_zero c, unpremul_le c a, unpremul_le_255_iff c, by rw [premul_opaque, unpremul_opaque]⟩

/-! ## Clamps -/

theorem clampI_toNat (v : Int) : ((clampI v).toNat : ℤ) = min (max v 0) 255 := by
  rw [clampI, clampi, BitVec.toNat_ofNat]
  omega

/-- `floorFin` is the floor of the number that the datum denotes, also for a negative one. -/
theorem floorFin_eq_floor (neg : Bool) (sig : ℕ) (ex : ℤ) : floorFin neg sig ex = ⌊fltValue (.fin neg sig ex)⌋ := by
  unfold floorFin
  split_ifs with hex
  · obtain ⟨n, rfl⟩ := Int.eq_ofNat_of_zero_le hex
    have hvalue : fltValue (.fin neg sig n) = (signedInt neg (sig * 2 ^ n) : ℤ) := by
      rw [fltValue_fin, signedInt_eq, zpow_natCast]
      push_cast
      rfl
    rw [hvalue, Int.floor_intCast]
    rfl
  · obtain ⟨n, rfl⟩ : ∃ n : ℕ, ex = -n := ⟨(-ex).toNat, by omega⟩
    have hvalue : fltValue (.fin neg sig (-n)) = (signedInt neg sig : ℚ) / (2 ^ n : ℕ) := by
      rw [fltValue, zpow_neg, zpow_natCast, ← div_eq_mul_inv]
      push_cast
      rfl
    rw [hvalue, Rat.floor_intCast_div_natCast, neg_neg]
    push_cast
    rfl

theorem clampF_of_neg {v : Flt} (hv : fltFinite v = true) (hneg : fltValue v < 0) : clampF v = 0 := by
  obtain _ | _ | ⟨neg, sig, ex⟩ := v
  · cases hv
  · cases hv
  · obtain ⟨rfl, -⟩ := fltValue_fin_neg.mp hneg
    rfl

/-- A finite number that is not negative is cut to its integer part, and then to 255 (R103); so is a negative zero. -/
theorem clampF_toNat_of_nonneg {v : Flt} (hv : fltFinite v = true) (h0 : 0 ≤ fltValue v) :
    ((clampF v).toNat : ℤ) = min ⌊fltValue v⌋ 255 := by
  obtain _ | _ | ⟨neg, sig, ex⟩ := v
  · cases hv
  · cases hv
  · cases neg with
    | true =>
      have hsig : sig = 0 := by
        by_contra hsig
        exact h0.not_gt (fltValue_fin_neg.mpr ⟨rfl, hsig⟩)
      rw [hsig, fltValue_zero]
      rfl
    | false =>
      have hfloor : 0 ≤ ⌊fltValue (.fin false sig ex)⌋ := Int.floor_nonneg.mpr h0
      simp only [clampF, floorFin_eq_floor, Bool.false_eq_true, if_false]
      split_ifs with hbig
      · exact (min_eq_right hbig.le).symm
      · rw [BitVec.toNat_ofNat]
        omega

/-- Settles O21: both clauses of `ClampF` for a number that is not negative are `clampF_toNat_of_nonneg`. -/
theorem clampsTruncateIntoAByte : Obligations.ClampsTruncateIntoAByte := by
  unfold Obligations.ClampsTruncateIntoAByte
  refine ⟨rfl, rfl, rfl, fun v hv => ⟨clampF_of_neg hv, fun hbig => ?_, fun h0 hle => ?_⟩, clampI_toNat⟩
  · have hfloor : 255 ≤ ⌊fltValue v⌋ := Int.le_floor.mpr hbig.le
    have hbyte := clampF_toNat_of_nonneg hv (le_trans (by norm_num) hbig.le)
    rw [min_eq_right hfloor] at hbyte
    exact BitVec.eq_of_toNat_eq (Int.ofNat.inj hbyte)
  · have hfloor : ⌊fltValue v⌋ ≤ 255 := Int.floor_le_iff.mpr (lt_of_le_of_lt hle (by norm_num))
    rw [clampF_toNat_of_nonneg hv h0, min_eq_left hfloor]

end Sys2Proof.Proofs.Codec
end

section
/-! SUPPORT. The surface-descriptor unit (`40_surface_codec.md` R110 to R115): the pixels that a pixel loop leaves in the
output's region, for any command made of one, and the clipping of a slot by `SUBSURF`; with the statements that follow. -/

namespace Sys2Proof.Proofs.Surfaces

open Sys2Proof.Machine Sys2Proof.Proofs.Commands Sys2Proof.Proofs.Steps Sys2Proof.Proofs.PixelMemory
open Sys2Proof.Proofs.CommandRegions

/-! ## Addresses in a surface whose rows do not run into each other -/

theorem addr_inj {S : Surface} {x y x' y' : Nat} (hx : x < S.stride) (hx' : x' < S.stride)
    (h : S.addr x y = S.addr x' y') : x = x' ∧ y = y' := by
  have hrows : x + S.stride * y = x' + S.stride * y' := by
    simp only [Surface.addr] at h
    linarith
  have hx_eq : x = x' := by
    simpa [Nat.add_mul_mod_self_left, Nat.mod_eq_of_lt, hx, hx'] using congrArg (· % S.stride) hrows
  refine ⟨hx_eq, Nat.eq_of_mul_eq_mul_left (Nat.zero_lt_of_lt hx) ?_⟩
  omega

/-- What the contract asks of an input and the output (R265): no pixel of the output but the one at its own coordinate
can lie where an input pixel does. -/
theorem addr_ne_input {A B : Surface} {w h x y x' y' : Nat} (hw : w ≤ B.stride)
    (hAB : aliasExactly A B ∨ shareNothing w h A B) (hx : x < w) (hy : y < h) (hx' : x' < w) (hy' : y' < h)
    (hne : ¬(x' = x ∧ y' = y)) : B.addr x' y' ≠ A.addr x y := by
  rcases hAB with ⟨hbase, hstride⟩ | hapart
  · have haddr : A.addr x y = B.addr x y := by simp only [Surface.addr, hbase, hstride]
    exact fun heq => hne (addr_inj (hx'.trans_le hw) (hx.trans_le hw) (heq.trans haddr))
  · exact (hapart x hx y hy x' hx' y' hy').symm

/-! ## What a pixel loop has painted -/

/-- The coordinates that a loop over rows `w` wide has passed when it comes to `(x, y)` (R111). -/
def scanned (w x y : Nat) : Set (Nat × Nat) := {p | p.1 < w ∧ (p.2 < y ∨ (p.2 = y ∧ p.1 < x))}

theorem mem_scanned {w x y : Nat} {p : Nat × Nat} :
    p ∈ scanned w x y ↔ p.1 < w ∧ (p.2 < y ∨ (p.2 = y ∧ p.1 < x)) := .rfl

theorem scanned_origin (w : Nat) : scanned w 0 0 = ∅ := by
  ext p
  simp [mem_scanned]

theorem scanned_succ {w x : Nat} (hx : x < w) (y : Nat) : scanned w (x + 1) y = insert (x, y) (scanned w x y) := by
  ext ⟨x', y'⟩
  simp only [mem_scanned, Set.mem_insert_iff, Prod.mk.injEq]
  omega

theorem scanned_row (w y : Nat) : scanned w w y = scanned w 0 (y + 1) := by
  ext ⟨x', y'⟩
  simp only [mem_scanned]
  omega

/-- `u` is `s` with the image in the pixels `D` of `B`, every other element as in `s`. -/
structure Painted (s : State) (B : Surface) (img : Nat → Nat → Word) (D : Set (Nat × Nat)) (u : State) : Prop where
  painted : ∀ p ∈ D, u.elem (B.addr p.1 p.2) = img p.1 p.2
  others : ∀ e, (∀ p ∈ D, B.addr p.1 p.2 ≠ e) → u.elem e = s.elem e

section
variable {s u : State} {B : Surface} {img : Nat → Nat → Word} {w h x y : Nat}

theorem Painted.start (s : State) (B : Surface) (img : Nat → Nat → Word) : Painted s B img ∅ s where
  painted _ hp := absurd hp (Set.notMem_empty _)
  others _ _ := rfl

theorem Painted.next (hu : Painted s B img (scanned w x y) u) (hw : w ≤ B.stride) (hx : x < w) :
    Painted s B img (scanned w (x + 1) y) (u.setElem (B.addr x y) (img x y)) := by
  rw [scanned_succ hx]
  constructor
  · rintro p (rfl | hp)
    · exact elem_setElem_same u _ _
    · have hne : B.addr p.1 p.2 ≠ B.addr x y := fun heq => by
        have hxy := addr_inj (hp.1.trans_le hw) (hx.trans_le hw) heq
        have hbefore := hp.2
        omega
      rw [elem_setElem_other u _ hne, hu.painted p hp]
  · intro e he
    rw [elem_setElem_other u _ (he (x, y) (Set.mem_insert _ _)).symm]
    exact hu.others e fun p hp => he p (Set.mem_insert_of_mem _ hp)

/-- When the loop comes to a coordinate, the input's pixel there is still as it was (R72, R111). -/
theorem Painted.elem_input (hu : Painted s B img (scanned w x y) u) {A : Surface} (hw : w ≤ B.stride)
    (hAB : aliasExactly A B ∨ shareNothing w h A B) (hx : x < w) (hy : y < h) :
    u.elem (A.addr x y) = s.elem (A.addr x y) :=
  hu.others _ fun p hp => by
    have hbefore := hp.2
    exact addr_ne_input hw hAB hx hy hp.1 (by omega) (by omega)

/-- A pixel loop whose body writes the image's pixel, while the input it reads is intact, leaves the whole image. -/
theorem pixelLoop_paints {body : Nat → Nat → State → Except Fault State} {t : State} (hw : w ≤ B.stride)
    (hbody : ∀ x < w, ∀ y < h, ∀ u v, Painted s B img (scanned w x y) u → body x y u = .ok v →
      v = u.setElem (B.addr x y) (img x y))
    (hloop : pixelLoop w h body s = .ok t) : ∀ x < w, ∀ y < h, t.elem (B.addr x y) = img x y := by
  have hrow : ∀ y u v, 0 ≤ y → y < 0 + h → Painted s B img (scanned w 0 y) u →
      forRange (fun x => body x y) 0 w u = .ok v → Painted s B img (scanned w 0 (y + 1)) v := by
    intro y u v _ hy hu hv
    have hend := forRange_carries (fun x => Painted s B img (scanned w x y))
      (fun x a b _ hx ha hb => by
        rw [hbody x (by omega) y (by omega) a b ha hb]
        exact ha.next hw (by omega)) hu hv
    rwa [Nat.zero_add, scanned_row] at hend
  have hstart : Painted s B img (scanned w 0 0) s := scanned_origin w ▸ .start s B img
  have hall := forRange_carries (fun y => Painted s B img (scanned w 0 y)) hrow hstart hloop
  exact fun x hx y hy => hall.painted (x, y) ⟨hx, .inl (by simpa using hy)⟩

end

/-! ## Commands that complete with an image -/

/-- A data command in memory completes, latches and writes its output region alone, so only the pixels that it writes
there are left to show. -/
theorem completesWith_of_elems {i : Instr} {s : State} {img : Nat → Nat → Word} (hd : isDataCommand i = true)
    (hin : InMemory i s)
    (helems : ∀ t, exec i s = .next t →
      ∀ x < (effSize i s).1, ∀ y < (effSize i s).2, t.elem ((surf s .s2).addr x y) = img x y) :
    CompletesWith i s img := by
  obtain ⟨t, ht⟩ := (commandsCompleteExactlyInsideMemory i s).1 hin
  have hwrites : Writes (latched i s) t := by
    rcases exec_cases ht with ⟨rfl, -⟩ | ⟨n, rfl, -⟩ | ⟨-, hwrites⟩
    · exact absurd hd (by decide)
    · simp [isDataCommand, usedSlots_subsurfOf] at hd
    · exact hwrites
  exact ⟨t, ht, hwrites.frame, helems t ht, (commandsWriteOnlyTheOutputRegion i s t ht).1⟩

/-- A one-input per-pixel command writes its function of each input pixel (R110, R111). -/
theorem oneInputGives_of_exec {i : Instr} {F : State → Word → Word} (hu : usedSlots i = [.s0, .s2])
    (hexec : ∀ s, exec i s = oneInput (F s) s) : OneInputGives i F := by
  rintro s ⟨hin, hstride, halias⟩
  have hsize : effSize i s = sizeOne s := by
    simp only [effSize, hu]
    rfl
  refine completesWith_of_elems (by simp [isDataCommand, hu]) hin fun t ht => ?_
  rw [hexec, oneInput, finish_eq_next, ← hsize] at ht
  refine pixelLoop_paints hstride (fun x hx y hy u v hpainted hv => ?_) ht
  obtain ⟨-, -, rfl⟩ := mapPixel_eq_ok.mp hv
  rw [hpainted.elem_input hstride (halias .s0 (by simp [hu])) hx hy]
  rfl

/-- Settles O27. -/
theorem nopChangesNothing : Obligations.NopChangesNothing := by
  unfold Obligations.NopChangesNothing
  exact ⟨rfl, fun _ => rfl⟩

/-- Settles O28: `COPY` is the one-input command whose function is the identity. -/
theorem copyMovesTheRegion : Obligations.CopyMovesTheRegion := by
  unfold Obligations.CopyMovesTheRegion
  exact ⟨rfl, oneInputGives_of_exec rfl fun _ => rfl⟩

/-! ## Sub-surfaces -/

theorem clampi_mem {v hi : Int} (h : 0 ≤ hi) : 0 ≤ clampi v 0 hi ∧ clampi v 0 hi ≤ hi := by
  unfold clampi
  omega

section
variable (r : SlotRegs) (x y w h : Int)

theorem surface_width_lt : r.surface.width < 2 ^ 16 := BitVec.isLt _

theorem surface_height_lt : r.surface.height < 2 ^ 16 := BitVec.isLt _

/-- The new base is the address of the clipped offset in the parent, modulo `2^32` (R115, D17). -/
theorem subsurfRegs_base : ((subsurfRegs r x y w h).base.toNat : ℤ) =
    (r.surface.base + clampi y 0 r.surface.height * r.surface.stride + clampi x 0 r.surface.width) % 2 ^ 32 := by
  rw [subsurfRegs, BitVec.toNat_ofInt]
  omega

/-- The new width is clipped against what the offset leaves of the parent's (R115, N6). -/
theorem subsurfRegs_width : ((subsurfRegs r x y w h).surface.width : ℤ) =
    clampi w 0 (r.surface.width - clampi x 0 r.surface.width) := by
  have hlt := surface_width_lt r
  have hx := clampi_mem (v := x) (Int.natCast_nonneg r.surface.width)
  have hw := clampi_mem (v := w) (sub_nonneg.mpr hx.2)
  change (dimWidth (packDim _ _) : ℤ) = _
  rw [dimWidth_packDim (by omega)]
  omega

theorem subsurfRegs_height : ((subsurfRegs r x y w h).surface.height : ℤ) =
    clampi h 0 (r.surface.height - clampi y 0 r.surface.height) := by
  have hlt := surface_height_lt r
  have hy := clampi_mem (v := y) (Int.natCast_nonneg r.surface.height)
  have hh := clampi_mem (v := h) (sub_nonneg.mpr hy.2)
  change (dimHeight (packDim _ _) : ℤ) = _
  rw [dimHeight_packDim (by omega)]
  omega

theorem subsurfRegs_stride : (subsurfRegs r x y w h).stride = r.stride := rfl

/-- A base that does not wrap is the parent's address of the clipped offset. -/
theorem subsurfRegs_base_of_lt {x0 y0 : Nat} (hx0 : (x0 : ℤ) = clampi x 0 r.surface.width)
    (hy0 : (y0 : ℤ) = clampi y 0 r.surface.height) (hlt : r.surface.addr x0 y0 < 2 ^ 32) :
    (subsurfRegs r x y w h).surface.base = r.surface.addr x0 y0 := by
  have hbase : ((subsurfRegs r x y w h).surface.base : ℤ) = (r.surface.addr x0 y0 : ℤ) % 2 ^ 32 := by
    rw [Surface.addr]
    push_cast
    rw [hx0, hy0]
    exact subsurfRegs_base r x y w h
  omega

theorem add_subsurfRegs_width_le {x0 : Nat} (hx0 : (x0 : ℤ) = clampi x 0 r.surface.width) :
    x0 + (subsurfRegs r x y w h).surface.width ≤ r.surface.width := by
  have hoffset := clampi_mem (v := x) (Int.natCast_nonneg r.surface.width)
  have hsize := clampi_mem (v := w) (sub_nonneg.mpr hoffset.2)
  rw [← subsurfRegs_width r x y w h] at hsize
  omega

theorem add_subsurfRegs_height_le {y0 : Nat} (hy0 : (y0 : ℤ) = clampi y 0 r.surface.height) :
    y0 + (subsurfRegs r x y w h).surface.height ≤ r.surface.height := by
  have hoffset := clampi_mem (v := y) (Int.natCast_nonneg r.surface.height)
  have hsize := clampi_mem (v := h) (sub_nonneg.mpr hoffset.2)
  rw [← subsurfRegs_height r x y w h] at hsize
  omega

end

theorem surf_makeSub (s : State) (n : Slot) : surf (makeSub s n) n =
    (subsurfRegs (s.slot n) (sint32 s.subX) (sint32 s.subY) (sint32 s.subW) (sint32 s.subH)).surface :=
  congrArg SlotRegs.surface (State.slot_setSlot_same s n _)

/-- Settles O29: the slot becomes `subsurfRegs` of itself. -/
theorem subsurfClipsTheSlot : Obligations.SubsurfClipsTheSlot := by
  unfold Obligations.SubsurfClipsTheSlot
  exact ⟨⟨rfl, rfl, rfl⟩, fun s n => ⟨_, exec_subsurfOf n s, subsurfRegs_base .., subsurfRegs_width ..,
    subsurfRegs_height .., subsurfRegs_stride ..⟩⟩

/-- Settles O30: a base that does not wrap is the parent's address of the clipped offset, from which the same stride
counts on; the clipped size keeps the pixel within the parent. -/
theorem subsurfIsAViewOfItsParent : Obligations.SubsurfIsAViewOfItsParent := by
  unfold Obligations.SubsurfIsAViewOfItsParent
  intro s t n x y ht hx hy x0 y0 hbase
  obtain rfl := Host.Outcome.next.inj ((exec_subsurfOf n s).symm.trans ht)
  rw [surf_makeSub] at hx hy ⊢
  have hx0 : (x0 : ℤ) = clampi (sint32 s.subX) 0 (surf s n).width :=
    Int.toNat_of_nonneg (clampi_mem (Int.natCast_nonneg _)).1
  have hy0 : (y0 : ℤ) = clampi (sint32 s.subY) 0 (surf s n).height :=
    Int.toNat_of_nonneg (clampi_mem (Int.natCast_nonneg _)).1
  refine ⟨?_, (Nat.add_lt_add_left hx x0).trans_le (add_subsurfRegs_width_le _ _ _ _ _ hx0),
    (Nat.add_lt_add_left hy y0).trans_le (add_subsurfRegs_height_le _ _ _ _ _ hy0)⟩
  rw [Surface.addr, subsurfRegs_base_of_lt _ _ _ _ _ hx0 hy0 hbase]
  change (surf s n).addr x0 y0 + y * (surf s n).stride + x = (surf s n).addr (x0 + x) (y0 + y)
  simp only [Surface.addr]
  ring

end Sys2Proof.Proofs.Surfaces
end

section
/-! SUPPORT. The colour-matrix unit (`41_color_transform.md` R130 to R136, R149): its four commands are one-input commands,
and under a matrix of natural numbers the binary32 arithmetic of R130 is exact; with the statements that follow. -/

namespace Sys2Proof.Proofs.ColorMatrix

open Sys2Proof.Machine Sys2Proof.Proofs.Float Sys2Proof.Proofs.Codec Sys2Proof.Proofs.Surfaces

/-! ## The commands apply their function to each pixel -/

/-- `CMX` reads its matrix once, before the loop, so the function is that of the state before the command (R131). -/
theorem cmx_gives : OneInputGives .cmx fun s => cmxPixel (matrixOf s) :=
  oneInputGives_of_exec rfl fun _ => rfl

theorem lum2a_gives : OneInputGives .lum2a fun _ => lum2aPixel :=
  oneInputGives_of_exec rfl fun _ => rfl

theorem s2l_gives : OneInputGives .s2l fun s => gammaPixel s.params.lutS2L :=
  oneInputGives_of_exec rfl fun _ => rfl

theorem l2s_gives : OneInputGives .l2s fun s => gammaPixel s.params.lutL2S :=
  oneInputGives_of_exec rfl fun _ => rfl

/-- The saturated index is below 256, so reducing it to an index of the table changes nothing (R134). -/
theorem gammaEntry_eq (T : Vector Byte 256) (v : Nat) : gammaEntry T v = T.get (Fin.ofNat 256 (min v 255)) := by
  have hindex : (⟨min v 255, by omega⟩ : Fin 256) = Fin.ofNat 256 (min v 255) :=
    Fin.ext (Nat.mod_eq_of_lt (by omega)).symm
  rw [gammaEntry, hindex]

/-! ## Natural numbers in binary32

The integers below `2^24` are data, so a sum or product of two of them that stays below is not rounded at all. -/

/-- A finite datum whose value is the natural number `n`. -/
structure Denotes (v : Flt) (n : ℕ) : Prop where
  finite : fltFinite v = true
  value : fltValue v = n

theorem fltFinite_of_datum {F : FloatFormat} {v : Flt} (h : fltDatum F v) : fltFinite v = true := by
  cases v with
  | nan => exact h.elim
  | inf _ => exact h.elim
  | fin _ _ _ => rfl

theorem denotes_fin (n : ℕ) : Denotes (.fin false n 0) n := ⟨rfl, by simp [fltValue_fin]⟩

theorem denotes_of_roundsOnce {r : Flt} {n : ℕ} (h : RoundsOnce n r) (hn : n < 2 ^ 24) : Denotes r n := by
  have hnQ : (n : ℚ) < 2 ^ 24 := by exact_mod_cast hn
  have hnear : NearestEven binary32 n r := h.1 (by rw [Nat.abs_cast]; linarith)
  have hdatum : fltDatum binary32 (.fin false n 0) := ⟨hn, by decide, by decide⟩
  exact ⟨fltFinite_of_datum hnear.1, fltValue_eq_of_nearestEven_datum hnear hdatum (denotes_fin n).value⟩

theorem denotes_f32OfInt {n : ℕ} (hn : n ≤ 65025) : Denotes (f32OfInt n) n :=
  ⟨fltFinite_of_datum (f32OfInt_exact n hn).1, (f32OfInt_exact n hn).2⟩

theorem Denotes.fadd {a b : Flt} {m n : ℕ} (ha : Denotes a m) (hb : Denotes b n) (hlt : m + n < 2 ^ 24) :
    Denotes (fadd a b) (m + n) := by
  refine denotes_of_roundsOnce ?_ hlt
  rw [Nat.cast_add, ← ha.value, ← hb.value]
  exact (finite_operands_round_once a b ha.finite hb.finite).1

theorem Denotes.fmul {a b : Flt} {m n : ℕ} (ha : Denotes a m) (hb : Denotes b n) (hlt : m * n < 2 ^ 24) :
    Denotes (fmul a b) (m * n) := by
  refine denotes_of_roundsOnce ?_ hlt
  rw [Nat.cast_mul, ← ha.value, ← hb.value]
  exact (finite_operands_round_once a b ha.finite hb.finite).2.1

theorem Denotes.clampF {v : Flt} {n : ℕ} (h : Denotes v n) : clampF v = BitVec.ofNat 8 (min n 255) := by
  have hbyte : ((Machine.clampF v).toNat : ℤ) = min ⌊fltValue v⌋ 255 :=
    clampF_toNat_of_nonneg h.finite (h.value ▸ Nat.cast_nonneg n)
  rw [h.value, Int.floor_natCast] at hbyte
  apply BitVec.eq_of_toNat_eq
  rw [BitVec.toNat_ofNat]
  omega

theorem denotes_one : Denotes (f32OfBits 0x3F800000#32) 1 := by
  have hfields : f32OfBits 0x3F800000#32 = .fin false (2 ^ 23) (-23) := by decide
  rw [hfields]
  exact ⟨rfl, by norm_num [fltValue_fin]⟩

theorem denotes_zero : Denotes (f32OfBits 0x00000000#32) 0 := by
  have hfields : f32OfBits 0x00000000#32 = .fin false 0 (-149) := by decide
  rw [hfields]
  exact ⟨rfl, by simp⟩

/-! ## A row of a matrix of natural numbers -/

/-- Every product and every partial sum of `MatRow` is at most the row's value, so none is rounded if that is below
`2^24` (R130). -/
theorem denotes_matRow {m0 m1 m2 m3 m4 : Flt} {k0 k1 k2 k3 k4 r g b a : ℕ} (h0 : Denotes m0 k0) (h1 : Denotes m1 k1)
    (h2 : Denotes m2 k2) (h3 : Denotes m3 k3) (h4 : Denotes m4 k4) (hr : r ≤ 65025) (hg : g ≤ 65025) (hb : b ≤ 65025)
    (ha : a ≤ 65025) (hlt : k0 * r + k1 * g + k2 * b + k3 * a + k4 * 255 < 2 ^ 24) :
    Denotes (matRow m0 m1 m2 m3 m4 r g b a) (k0 * r + k1 * g + k2 * b + k3 * a + k4 * 255) := by
  have hmr := h0.fmul (denotes_f32OfInt hr) (by omega)
  have hmg := h1.fmul (denotes_f32OfInt hg) (by omega)
  have hmb := h2.fmul (denotes_f32OfInt hb) (by omega)
  have hma := h3.fmul (denotes_f32OfInt ha) (by omega)
  have hm255 := h4.fmul (denotes_f32OfInt (n := 255) (by omega)) (by omega)
  exact (((hmr.fadd hmg (by omega)).fadd hmb (by omega)).fadd hma (by omega)).fadd hm255 hlt

/-! ## The identity matrix (R149) -/

/-- The identity matrix in `M0` to `M19`, four rows of five. -/
def HoldsIdentity (s : State) : Prop :=
  ∀ n : Fin 20, s.m.get n = if n.val ∈ [0, 6, 12, 18] then 0x3F800000#32 else 0

theorem denotes_matrixOf {s : State} (h : HoldsIdentity s) (n : Fin 20) :
    Denotes (matrixOf s n) (if n.val ∈ [0, 6, 12, 18] then 1 else 0) := by
  rw [matrixOf, h n]
  split
  · exact denotes_one
  · exact denotes_zero

/-- Each row's one 1 stands at its own channel, so the row's other four terms vanish. -/
theorem denotes_identity_rows {s : State} (h : HoldsIdentity s) {r g b a : ℕ} (hr : r ≤ 65025) (hg : g ≤ 65025)
    (hb : b ≤ 65025) (ha : a ≤ 65025) :
    let m := matrixOf s
    Denotes (matRow (m 0) (m 1) (m 2) (m 3) (m 4) r g b a) r ∧
    Denotes (matRow (m 5) (m 6) (m 7) (m 8) (m 9) r g b a) g ∧
    Denotes (matRow (m 10) (m 11) (m 12) (m 13) (m 14) r g b a) b ∧
    Denotes (matRow (m 15) (m 16) (m 17) (m 18) (m 19) r g b a) a := by
  have hm := denotes_matrixOf h
  refine ⟨?red, ?green, ?blue, ?alpha⟩
  case red => simpa using denotes_matRow (hm 0) (hm 1) (hm 2) (hm 3) (hm 4) hr hg hb ha (by simp; omega)
  case green => simpa using denotes_matRow (hm 5) (hm 6) (hm 7) (hm 8) (hm 9) hr hg hb ha (by simp; omega)
  case blue => simpa using denotes_matRow (hm 10) (hm 11) (hm 12) (hm 13) (hm 14) hr hg hb ha (by simp; omega)
  case alpha => simpa using denotes_matRow (hm 15) (hm 16) (hm 17) (hm 18) (hm 19) hr hg hb ha (by simp; omega)

/-- Alpha is a byte, so its row comes back as it was; a channel of a pixel that is not canonical saturates (R105). -/
theorem cmxPixel_of_holdsIdentity {s : State} (h : HoldsIdentity s) (p : Word) :
    cmxPixel (matrixOf s) p =
      let q := unpack p
      let again := fun c : Byte => premul (BitVec.ofNat 8 (min (unpremul c q.a) 255)) q.a
      pack { a := q.a, r := again q.r, g := again q.g, b := again q.b } := by
  have halpha : (unpack p).a.toNat ≤ 255 := Nat.le_of_lt_succ (unpack p).a.isLt
  obtain ⟨hred, hgreen, hblue, hopacity⟩ := denotes_identity_rows h (unpremul_le (unpack p).r (unpack p).a)
    (unpremul_le (unpack p).g (unpack p).a) (unpremul_le (unpack p).b (unpack p).a) (halpha.trans (by decide))
  simp only [cmxPixel, hred.clampF, hgreen.clampF, hblue.clampF, hopacity.clampF, min_eq_left halpha,
    BitVec.ofNat_toNat, BitVec.setWidth_eq]

/-! ## The statements -/

/-- Settles O31: the model's function of a pixel is R130's and R131's, written out. -/
theorem cmxTransformsEveryPixel : Obligations.CmxTransformsEveryPixel := by
  unfold Obligations.CmxTransformsEveryPixel
  exact ⟨rfl, cmx_gives⟩

/-- Settles O32: under the identity matrix no operation of `CMX` rounds (`cmxPixel_of_holdsIdentity`). -/
theorem cmxWithIdentityRepremultiplies : Obligations.CmxWithIdentityRepremultiplies := by
  unfold Obligations.CmxWithIdentityRepremultiplies
  intro s hcontract hidentity
  simpa only [cmxPixel_of_holdsIdentity hidentity] using cmx_gives s hcontract

/-- Settles O33: the model's function of a pixel is R133's, with its three constants written out. -/
theorem lum2aPutsLuminanceInAlpha : Obligations.Lum2aPutsLuminanceInAlpha := by
  unfold Obligations.Lum2aPutsLuminanceInAlpha
  exact ⟨rfl, lum2a_gives⟩

/-- Settles O34: each command passes its own table to the one function of R134. -/
theorem gammaCommandsUseTheirTables : Obligations.GammaCommandsUseTheirTables := by
  unfold Obligations.GammaCommandsUseTheirTables
  simp only [← gammaEntry_eq]
  exact ⟨⟨rfl, rfl⟩, s2l_gives, l2s_gives⟩

end Sys2Proof.Proofs.ColorMatrix
end

section
/-! SUPPORT. The size of a kernel (`42_box_blur.md` R161, R162): one product and one sum in binary64, which cannot
overflow on a binary32 operand, and the caps; with the statements that follow. -/

namespace Sys2Proof.Proofs.KernelSize

open Sys2Proof.Machine Sys2Proof.Proofs.Float Sys2Proof.Proofs.Codec
open Sys2Proof.Proofs.ColorMatrix (fltFinite_of_datum)

/-! ## One operation in any format -/

theorem binary64_proper : Proper binary64 := ⟨by decide, by decide⟩

theorem overflowBound_binary64_gt : (2 : ℚ) ^ 131 < overflowBound binary64 :=
  calc (2 : ℚ) ^ 131 < (2 ^ 53 - 1 / 2) * 2 ^ (79 : ℤ) := by norm_num
    _ ≤ (2 ^ 53 - 1 / 2) * 2 ^ (971 : ℤ) :=
      mul_le_mul_of_nonneg_left (zpow_mono (by decide)) (by norm_num)
    _ = overflowBound binary64 := rfl

/-- A product of finite data below the overflow bound is the exact product, rounded once. -/
theorem fltMul_nearestEven {F : FloatFormat} (hF : Proper F) {a b : Flt} (ha : fltFinite a = true)
    (hb : fltFinite b = true) (hlt : |fltValue a * fltValue b| < overflowBound F) :
    NearestEven F (fltValue a * fltValue b) (fltMul F a b) := by
  match a, b with
  | .fin n m e, .fin n' m' e' =>
    have hprod : fltValue (.fin n m e) * fltValue (.fin n' m' e') =
        signRat (n != n') * (((m * m' : ℕ) : ℚ) * 2 ^ (e + e')) := by
      rw [fltValue_fin, fltValue_fin, signRat_bne, zpow_add₀ two_ne_zero]
      push_cast
      ring
    rw [hprod, abs_signRat_mul, abs_of_nonneg (by positivity)] at hlt
    rw [hprod]
    exact (roundTo_roundsMagnitude hF (n != n') (m * m') (e + e')).1 hlt

/-- A sum of finite data below the overflow bound is the exact sum, rounded once. -/
theorem fltAdd_nearestEven {F : FloatFormat} (hF : Proper F) {a b : Flt} (ha : fltFinite a = true)
    (hb : fltFinite b = true) (hlt : |fltValue a + fltValue b| < overflowBound F) :
    NearestEven F (fltValue a + fltValue b) (fltAdd F a b) := by
  match a, b with
  | .fin n m e, .fin n' m' e' =>
    have hsum : fltValue (.fin n m e) + fltValue (.fin n' m' e') =
        ((signedInt n (m * 2 ^ (e - min e e').toNat) + signedInt n' (m' * 2 ^ (e' - min e e').toNat) : ℤ) : ℚ) *
          2 ^ min e e' := by
      rw [fltValue_fin, fltValue_fin, ← mul_toNat_sub_zpow m (min_le_left e e'),
        ← mul_toNat_sub_zpow m' (min_le_right e e'), Int.cast_add, signedInt_eq, signedInt_eq]
      ring
    rw [hsum] at hlt ⊢
    simp only [fltAdd]
    generalize signedInt n _ + signedInt n' _ = v at hlt ⊢
    generalize min e e' = t at hlt ⊢
    split
    · rename_i hv
      have hzero := (zero_roundsMagnitude hF false (n && n')).1 (by simpa [hv] using hlt)
      simpa [hv] using hzero
    · rw [← signRat_decide_mul_natAbs v, mul_assoc] at hlt ⊢
      rw [abs_signRat_mul, abs_of_nonneg (by positivity)] at hlt
      exact (roundTo_roundsMagnitude hF (decide (v < 0)) v.natAbs t).1 hlt

/-- Zero is a datum, so rounding at most doubles a magnitude. -/
theorem abs_fltValue_le_of_nearestEven {F : FloatFormat} (hF : Proper F) {x : ℚ} {r : Flt} (h : NearestEven F x r) :
    |fltValue r| ≤ 2 * |x| := by
  have hzero : fltDatum F (.fin false 0 F.emin) := ⟨by positivity, le_rfl, hF.2⟩
  have hnear := (h.2 _ hzero).1
  rw [fltValue_zero, sub_zero] at hnear
  have htri := abs_sub_abs_le_abs_sub (fltValue r) x
  rw [abs_sub_comm] at htri
  linarith

/-! ## The kernel size of a standard deviation (R161) -/

/-- The constant of R161 and one half, as binary64 data. -/
abbrev kernelConst : Flt := .fin false Config.kconstSig Config.kconstEx

/-- See `kernelConst`. -/
abbrev oneHalf : Flt := .fin false (2 ^ 52) (-53)

theorem fltValue_kernelConst : fltValue kernelConst = 0x1E145CAFF13A88 / 2 ^ 52 := by
  norm_num [fltValue_fin, Config.kconstSig, Config.kconstEx]

theorem fltValue_oneHalf : fltValue oneHalf = 1 / 2 := by
  norm_num [fltValue_fin]

/-- The printed decimal lies less than half a unit from the printed bit pattern. -/
theorem kernelConst_nearestEven :
    NearestEven binary64 (18799712059732503 / 10 ^ 16) (.fin false 0x1E145CAFF13A88 (-52)) := by
  refine nearestEven_of_unit binary64_proper (v := 0x1E145CAFF13A88) (t := -52) ⟨?_, ?_, ?_⟩ ?_ (fun _ => ?_) ?_
    fun _ => ?_
  · norm_num [binary64]
  · norm_num [binary64]
  · norm_num [binary64]
  · norm_num [fltValue_fin]
  · norm_num [binary64, abs_of_pos]
  · norm_num [abs_of_pos, abs_of_neg]
  · norm_num [fltEven]

theorem kernelFloor_of_finite {v : Flt} (h : fltFinite v = true) :
    kernelFloor v = min (max ⌊fltValue v⌋ (-(2 ^ 31))) (2 ^ 31 - 1) := by
  match v with
  | .fin neg sig ex => rw [kernelFloor, floorFin_eq_floor, clampi, kernelMin, kernelMax]

theorem f32OfBits_datum {w : Word} (h : fltFinite (f32OfBits w) = true) : fltDatum binary32 (f32OfBits w) := by
  obtain ⟨hinf, hnan, hsub, hnormal⟩ := f32OfBits_reads_fields w
  have he : w.toNat / 2 ^ 23 % 2 ^ 8 < 2 ^ 8 := Nat.mod_lt _ (by positivity)
  rcases Nat.eq_zero_or_pos (w.toNat / 2 ^ 23 % 2 ^ 8) with h0 | hpos
  · exact (hsub h0).1
  · rcases eq_or_ne (w.toNat / 2 ^ 23 % 2 ^ 8) 255 with h255 | h255
    · exfalso
      by_cases hf : w.toNat % 2 ^ 23 = 0
      · rw [hinf h255 hf] at h
        cases h
      · rw [hnan h255 hf] at h
        cases h
    · exact (hnormal hpos (by omega)).1

theorem abs_lt_of_binary32 {v : Flt} (h : fltDatum binary32 v) : |fltValue v| < 2 ^ 128 := by
  match v with
  | .fin neg sig ex =>
    obtain ⟨hsig, -, hex⟩ := h
    have hcast : (sig : ℚ) < 2 ^ 24 := by exact_mod_cast hsig
    rw [abs_fltValue_fin]
    calc (sig : ℚ) * 2 ^ ex < 2 ^ 24 * 2 ^ ex := by gcongr
      _ ≤ 2 ^ 24 * 2 ^ (104 : ℤ) := mul_le_mul_of_nonneg_left (zpow_mono hex) (by norm_num)
      _ = 2 ^ 128 := by norm_num

/-- On a binary32 operand neither operation overflows binary64, so each rounds its exact result once. -/
theorem kernelReal_rounds_twice {std : Flt} (h : fltDatum binary32 std) :
    ∃ p v : Flt, NearestEven binary64 (fltValue std * fltValue kernelConst) p ∧
      NearestEven binary64 (fltValue p + fltValue oneHalf) v ∧ kernelReal std = v := by
  have hstd := abs_lt_of_binary32 h
  have hbound := overflowBound_binary64_gt
  have hprod : |fltValue std * fltValue kernelConst| < 2 ^ 129 := by
    rw [fltValue_kernelConst, abs_mul, abs_of_pos (by norm_num : (0 : ℚ) < 0x1E145CAFF13A88 / 2 ^ 52)]
    linarith
  have hp := fltMul_nearestEven binary64_proper (fltFinite_of_datum h) (b := kernelConst) rfl (by linarith)
  have hsum : |fltValue (fltMul binary64 std kernelConst) + fltValue oneHalf| < overflowBound binary64 := by
    have hdouble := abs_fltValue_le_of_nearestEven binary64_proper hp
    have htri := abs_add_le (fltValue (fltMul binary64 std kernelConst)) (fltValue oneHalf)
    rw [fltValue_oneHalf, abs_of_pos (by norm_num : (0 : ℚ) < 1 / 2)] at htri
    rw [fltValue_oneHalf]
    linarith
  exact ⟨_, _, hp, fltAdd_nearestEven binary64_proper (fltFinite_of_datum hp.1) rfl hsum, rfl⟩

theorem kernelFromStd_of_finite {w : Word} (h : fltFinite (f32OfBits w) = true) :
    ∃ p v : Flt,
      NearestEven binary64 (fltValue (f32OfBits w) * (0x1E145CAFF13A88 / 2 ^ 52)) p ∧
      NearestEven binary64 (fltValue p + 1 / 2) v ∧
      kernelFromStd w = min (max ⌊fltValue v⌋ (-(2 ^ 31))) (2 ^ 31 - 1) := by
  obtain ⟨p, v, hp, hv, hreal⟩ := kernelReal_rounds_twice (f32OfBits_datum h)
  rw [fltValue_kernelConst] at hp
  rw [fltValue_oneHalf] at hv
  exact ⟨p, v, hp, hv, by rw [kernelFromStd, hreal, kernelFloor_of_finite (fltFinite_of_datum hv.1)]⟩

/-! ## The statements -/

/-- Settles O23: neither binary64 operation overflows (`kernelReal_rounds_twice`). -/
theorem kernelSizeOfAStandardDeviation : Obligations.KernelSizeOfAStandardDeviation := by
  unfold Obligations.KernelSizeOfAStandardDeviation
  have hspecial : ∀ (w : Word) (v : Flt), f32OfBits w = v → kernelFromStd w = kernelFloor (kernelReal v) :=
    fun _ _ h => h ▸ rfl
  exact ⟨kernelConst_nearestEven, fun w => ⟨hspecial w .nan, hspecial w (.inf false), hspecial w (.inf true),
    kernelFromStd_of_finite⟩⟩

/-- Settles O24: one case for each branch of `capK`. -/
theorem kernelCaps : Obligations.KernelCaps := by
  unfold Obligations.KernelCaps
  intro k extent
  rw [capK, Config.scratchCap]
  split <;> omega

end Sys2Proof.Proofs.KernelSize
end

section
/-! SUPPORT. One line of the box filter (`42_box_blur.md` R163 to R165): the closed form's bounds, and what the running
sums, the scratch window and memory hold between two iterations; with the statements about single lines. -/

namespace Sys2Proof.Proofs.BoxLine

open Sys2Proof.Machine Sys2Proof.Proofs.Commands Sys2Proof.Proofs.PixelMemory Sys2Proof.Proofs.Regions
open Finset (Ico Icc range)

/-! ## Channels -/

theorem channel_le {ch : Pixel → Nat} (hch : ch ∈ channels) (q : Pixel) : ch q ≤ 255 := by
  simp only [channels, List.mem_cons, List.not_mem_nil, or_false] at hch
  rcases hch with rfl | rfl | rfl | rfl <;> exact Nat.le_of_lt_succ (BitVec.isLt _)

/-- Pixels with the same four channels are the same word (R63). -/
theorem word_eq_of_channels {p q : Word} (h : ∀ ch ∈ channels, ch (unpack p) = ch (unpack q)) : p = q := by
  simp only [channels, List.forall_mem_cons, List.not_mem_nil, false_implies, implies_true, and_true] at h
  obtain ⟨ha, hr, hg, hb⟩ := h
  apply BitVec.eq_of_toNat_eq
  rw [toNat_eq_channels p, toNat_eq_channels q, ha, hr, hg, hb]

/-- A channel of the closed form, as a byte. -/
theorem channel_boxAt {ch : Pixel → Nat} (hch : ch ∈ channels) (k n : Nat) (line : Nat → Word) (c : Nat) :
    ch (unpack (boxAt k n line c)) = windowSum k n line ch c / k % 2 ^ 8 := by
  simp only [channels, List.mem_cons, List.not_mem_nil, or_false] at hch
  rw [boxAt, unpack_pack]
  rcases hch with rfl | rfl | rfl | rfl <;> exact BitVec.toNat_ofNat ..

/-! ## Windows -/

/-- The window of output `c` as the half-open interval of the pixels held when the routine emits it (R163, R164). -/
theorem windowSum_eq {k n c : Nat} (hc : c < n) (line : Nat → Word) (ch : Pixel → Nat) :
    windowSum k n line ch c = ∑ j ∈ Ico (c + k / 2 + 1 - k) (min n (c + k / 2 + 1)), ch (unpack (line j)) := by
  have hIcc : Icc (c + k / 2 + 1 - k) (min (n - 1) (c + k / 2)) = Ico (c + k / 2 + 1 - k) (min n (c + k / 2 + 1)) := by
    ext j
    simp only [Finset.mem_Icc, Finset.mem_Ico]
    omega
  rw [windowSum, hIcc]

/-- At most `k` pixels of at most 255 each. -/
theorem windowSum_div_le {ch : Pixel → Nat} (hch : ch ∈ channels) {k n c : Nat} (hk : 1 ≤ k) (hc : c < n)
    (line : Nat → Word) : windowSum k n line ch c / k ≤ 255 := by
  refine Nat.div_le_of_le_mul ?_
  rw [windowSum_eq hc]
  refine (Finset.sum_le_card_nsmul _ _ 255 fun j _ => channel_le hch _).trans ?_
  rw [Nat.card_Ico, smul_eq_mul]
  gcongr
  omega

theorem windowSum_of_constant {k n c : Nat} {line : Nat → Word} (ch : Pixel → Nat) (hc : c < n)
    (hlow : k ≤ c + k / 2 + 1) (hhigh : c + k / 2 < n) (hline : ∀ j < n, line j = line c) :
    windowSum k n line ch c = k * ch (unpack (line c)) := by
  have hsum : ∑ j ∈ Ico (c + k / 2 + 1 - k) (min n (c + k / 2 + 1)), ch (unpack (line j)) =
      ∑ _j ∈ Ico (c + k / 2 + 1 - k) (min n (c + k / 2 + 1)), ch (unpack (line c)) :=
    Finset.sum_congr rfl fun j hj => by rw [hline j (by rw [Finset.mem_Ico] at hj; omega)]
  rw [windowSum_eq hc, hsum, Finset.sum_const, Nat.card_Ico, smul_eq_mul]
  congr 1
  omega

theorem channel_boxAt_of_byte {ch : Pixel → Nat} (hch : ch ∈ channels) {k n c : Nat} (hk : 1 ≤ k) (hc : c < n)
    (line : Nat → Word) : ch (unpack (boxAt k n line c)) = windowSum k n line ch c / k := by
  rw [channel_boxAt hch, Nat.mod_eq_of_lt]
  exact Nat.lt_succ_of_le (windowSum_div_le hch hk hc line)

/-- A whole window in a constant line sums to `k` times its pixel (R175). -/
theorem boxAt_of_constant {k n c : Nat} {line : Nat → Word} (hk : 1 ≤ k) (hc : c < n) (hlow : k ≤ c + k / 2 + 1)
    (hhigh : c + k / 2 < n) (hline : ∀ j < n, line j = line c) : boxAt k n line c = line c :=
  word_eq_of_channels fun ch hch => by
    rw [channel_boxAt_of_byte hch hk hc, windowSum_of_constant ch hc hlow hhigh hline, Nat.mul_div_cancel_left _ hk]

/-- The window of kernel 1 is the pixel itself. -/
theorem boxAt_one {n c : Nat} (hc : c < n) (line : Nat → Word) : boxAt 1 n line c = line c :=
  word_eq_of_channels fun ch hch => by
    have hone : Ico (c + 1 / 2 + 1 - 1) (min n (c + 1 / 2 + 1)) = {c} := by
      ext j
      rw [Finset.mem_Ico, Finset.mem_singleton]
      omega
    rw [channel_boxAt_of_byte hch le_rfl hc, windowSum_eq hc, hone, Finset.sum_singleton, Nat.div_one]

/-- Settles O42: a window holds at most `k` pixels, `k` of them when it lies whole in the line. -/
theorem windowInsideAConstantLineIsFixed : Obligations.WindowInsideAConstantLineIsFixed := by
  unfold Obligations.WindowInsideAConstantLineIsFixed
  exact fun k n line c hk hc =>
    ⟨fun ch hch => windowSum_div_le hch hk hc line, boxAt_one hc line, boxAt_of_constant hk hc⟩

/-! ## Intensity (R176) -/

/-- Each pixel lies in at most `k` windows, so the windows of a line sum to at most `k` times the line. -/
theorem sum_windowSum_le (k n : Nat) (line : Nat → Word) (ch : Pixel → Nat) :
    ∑ c ∈ range n, windowSum k n line ch c ≤ k * ∑ j ∈ range n, ch (unpack (line j)) := by
  have hswap : ∑ c ∈ range n, windowSum k n line ch c =
      ∑ j ∈ range n, ∑ _c ∈ (range n).filter fun c => c + k / 2 + 1 - k ≤ j ∧ j ≤ c + k / 2, ch (unpack (line j)) := by
    simp only [windowSum]
    refine Finset.sum_comm' fun c j => ?_
    simp only [Finset.mem_range, Finset.mem_Icc, Finset.mem_filter]
    omega
  rw [hswap, Finset.mul_sum]
  refine Finset.sum_le_sum fun j _ => ?_
  rw [Finset.sum_const, smul_eq_mul]
  gcongr
  have hfew : (range n).filter (fun c => c + k / 2 + 1 - k ≤ j ∧ j ≤ c + k / 2) ⊆
      Ico (j - k / 2) (j - k / 2 + k) := by
    intro c hc
    simp only [Finset.mem_filter, Finset.mem_range, Finset.mem_Ico] at hc ⊢
    omega
  simpa using Finset.card_le_card hfew

/-- Settles O41: the quotients of the windows' sums lose, and the windows' sums gain at most the factor `k`. -/
theorem boxPassNeverGainsIntensity : Obligations.BoxPassNeverGainsIntensity := by
  unfold Obligations.BoxPassNeverGainsIntensity
  intro k n line hk ch hch
  refine Nat.le_of_mul_le_mul_left ?_ hk
  calc k * ∑ c ∈ range n, ch (unpack (boxAt k n line c))
      ≤ ∑ c ∈ range n, windowSum k n line ch c := by
        rw [Finset.mul_sum]
        refine Finset.sum_le_sum fun c hc => ?_
        rw [channel_boxAt_of_byte hch hk (Finset.mem_range.mp hc)]
        exact Nat.mul_div_le _ _
    _ ≤ k * ∑ j ∈ range n, ch (unpack (line j)) := sum_windowSum_le k n line ch

/-! ## The running sums and the scratch window -/

/-- The running sum of each channel (R51). -/
def channelSums : List ((Line → Nat) × (Pixel → Nat)) :=
  [(Line.sumA, fun q => q.a.toNat), (Line.sumR, fun q => q.r.toNat), (Line.sumG, fun q => q.g.toNat),
    (Line.sumB, fun q => q.b.toNat)]

theorem forall_channelSums {P : (Line → Nat) × (Pixel → Nat) → Prop} :
    (∀ p ∈ channelSums, P p) ↔
      P (Line.sumA, fun q => q.a.toNat) ∧ P (Line.sumR, fun q => q.r.toNat) ∧ P (Line.sumG, fun q => q.g.toNat) ∧
        P (Line.sumB, fun q => q.b.toNat) := by
  simp only [channelSums, List.forall_mem_cons, List.not_mem_nil, false_implies, implies_true, and_true]

theorem sum_startLine (s : State) : ∀ p ∈ channelSums, p.1 (startLine s) = 0 :=
  forall_channelSums.mpr ⟨rfl, rfl, rfl, rfl⟩

theorem sum_absorb (slot : Nat) (v : Word) (L : Line) :
    ∀ p ∈ channelSums, p.1 (absorb slot v L) = p.1 L + p.2 (unpack v) :=
  forall_channelSums.mpr ⟨rfl, rfl, rfl, rfl⟩

theorem sum_evict (slot : Nat) (L : Line) :
    ∀ p ∈ channelSums, p.1 (evict slot L) = p.1 L - p.2 (unpack (L.scr slot)) :=
  forall_channelSums.mpr ⟨rfl, rfl, rfl, rfl⟩

theorem sum_withState (L : Line) (u : State) : ∀ p ∈ channelSums, p.1 { L with st := u } = p.1 L :=
  forall_channelSums.mpr ⟨rfl, rfl, rfl, rfl⟩

/-- The routine emits the closed form when each sum is that of the output's window. -/
theorem average_eq_boxAt {k n c : Nat} {line : Nat → Word} {L : Line}
    (h : ∀ p ∈ channelSums, p.1 L = windowSum k n line p.2 c) : average k L = boxAt k n line c := by
  obtain ⟨ha, hr, hg, hb⟩ := forall_channelSums.mp h
  simp only at ha hr hg hb
  rw [average, boxAt, ha, hr, hg, hb]

/-- Fewer than `k` apart, two pixels have different scratch slots. -/
theorem slot_ne {j i k : Nat} (hji : j < i) (hik : i < j + k) : j % k ≠ i % k := fun h => by
  have hle := Nat.le_of_dvd (by omega) ((Nat.modEq_iff_dvd' hji.le).mp h)
  omega

/-! ## Between two iterations -/

/-- The addresses of a line that is filtered in place or apart from itself (R165): none is written twice, and no write
changes another pixel of the input. -/
structure Separate (src dst : Nat → Nat) (n : Nat) : Prop where
  dst_ne_src : ∀ j < n, ∀ c < n, c ≠ j → dst c ≠ src j
  dst_ne_dst : ∀ j < n, ∀ c < n, c ≠ j → dst c ≠ dst j

/-- The sums and the scratch window hold the pixels `lo .. hi-1` of `line`; the outputs below `e` are written, and the
input from `e` on is still as it was. -/
structure LineAt (src dst : Nat → Nat) (k n : Nat) (line : Nat → Word) (lo hi e : Nat) (L : Line) : Prop where
  sums : ∀ p ∈ channelSums, p.1 L = ∑ j ∈ Ico lo hi, p.2 (unpack (line j))
  scratch : ∀ j, lo ≤ j → j < hi → L.scr (j % k) = line j
  written : ∀ c < e, L.st.elem (dst c) = boxAt k n line c
  unread : ∀ j < n, e ≤ j → L.st.elem (src j) = line j

section
variable {src dst : Nat → Nat} {k n lo hi e : Nat} {line : Nat → Word} {L M : Line}

theorem LineAt.congr (h : LineAt src dst k n line lo hi e L) {lo' hi' e' : Nat} (hlo : lo = lo') (hhi : hi = hi')
    (he : e = e') : LineAt src dst k n line lo' hi' e' L :=
  hlo ▸ hhi ▸ he ▸ h

theorem LineAt.start {s : State} (hline : ∀ j < n, s.elem (src j) = line j) :
    LineAt src dst k n line 0 0 0 (startLine s) where
  sums p hp := sum_startLine s p hp
  scratch _ _ hj := absurd hj (Nat.not_lt_zero _)
  written _ hc := absurd hc (Nat.not_lt_zero _)
  unread j hj _ := hline j hj

theorem LineAt.evict (h : LineAt src dst k n line lo hi e L) (hlt : lo < hi) :
    LineAt src dst k n line (lo + 1) hi e (evict (lo % k) L) where
  sums p hp := by
    rw [sum_evict _ _ p hp, h.sums p hp, h.scratch lo le_rfl hlt, Finset.sum_eq_sum_Ico_succ_bot hlt]
    exact Nat.add_sub_cancel_left ..
  scratch j hlo hhi := h.scratch j (by omega) hhi
  written := h.written
  unread := h.unread

theorem LineAt.load (h : LineAt src dst k n line lo hi e L) (hn : hi < n) (he : e ≤ hi) (hlo : lo ≤ hi)
    (hroom : hi < lo + k) (hload : loadPixel src k hi L = .ok M) : LineAt src dst k n line lo (hi + 1) e M := by
  obtain ⟨-, rfl⟩ := loadPixel_eq_ok.mp hload
  rw [h.unread hi hn he]
  refine ⟨fun p hp => ?_, fun j hj hjhi => ?_, h.written, h.unread⟩
  · rw [sum_absorb _ _ _ p hp, h.sums p hp, Finset.sum_Ico_succ_top hlo]
  · rcases Nat.lt_succ_iff_lt_or_eq.mp hjhi with hold | rfl
    · exact (if_neg (slot_ne hold (by omega))).trans (h.scratch j hj hold)
    · exact if_pos rfl

/-- With the window of `e` in the sums, emitting writes the closed form at `e` and keeps the input after it (R165). -/
theorem LineAt.emit (h : LineAt src dst k n line lo hi e L) (hsep : Separate src dst n) (hn : e < n)
    (hlo : lo = e + k / 2 + 1 - k) (hhi : hi = min n (e + k / 2 + 1)) (hemit : emit dst k e L = .ok M) :
    LineAt src dst k n line lo hi (e + 1) M := by
  obtain ⟨-, rfl⟩ := emit_eq_ok.mp hemit
  have haverage : average k L = boxAt k n line e :=
    average_eq_boxAt fun p hp => by rw [h.sums p hp, windowSum_eq hn, hlo, hhi]
  refine ⟨fun p hp => (sum_withState _ _ p hp).trans (h.sums p hp), h.scratch, fun c hc => ?_, fun j hj hej => ?_⟩
  · rcases Nat.lt_succ_iff_lt_or_eq.mp hc with hold | rfl
    · exact (elem_setElem_other _ _ (hsep.dst_ne_dst e hn c (by omega) (by omega))).trans (h.written c hold)
    · exact (elem_setElem_same _ _ _).trans haverage
  · exact (elem_setElem_other _ _ (hsep.dst_ne_src j hj e hn (by omega)).symm).trans (h.unread j hj (by omega))

/-! ## The three phases -/

/-- What holds when the routine comes to iteration `i`, in every phase (R163). -/
abbrev LineBefore (src dst : Nat → Nat) (k n : Nat) (line : Nat → Word) (i : Nat) (L : Line) : Prop :=
  LineAt src dst k n line (i - k) (min n i) (min n (i - k / 2)) L

theorem LineBefore.fillStep {i : Nat} (h : LineBefore src dst k n line i L) (hsep : Separate src dst n) (hkn : k ≤ n)
    (hi : i < k) (hstep : fillStep src dst k n i L = .ok M) : LineBefore src dst k n line (i + 1) M := by
  obtain ⟨K, hload, hrest⟩ := bind_eq_ok.mp hstep
  have hbefore := h.congr (lo' := 0) (hi' := i) (e' := i - k / 2) (by omega) (by omega) (by omega)
  have hloaded := hbefore.load (by omega) (by omega) (by omega) (by omega) hload
  split at hrest
  · have hemitted := hloaded.emit hsep (by omega) (by omega) (by omega) hrest
    exact hemitted.congr (by omega) (by omega) (by omega)
  · cases hrest
    exact hloaded.congr (by omega) (by omega) (by omega)

/-- The pixel `k` iterations back is the oldest one held. -/
theorem LineBefore.evicted {i : Nat} (h : LineBefore src dst k n line i L) (hk : 1 ≤ k) (hki : k ≤ i) (hi : i < n + k) :
    LineAt src dst k n line (i + 1 - k) (min n i) (min n (i - k / 2)) (Machine.evict (i % k) L) := by
  rw [Nat.mod_eq_sub_mod hki]
  exact (LineAt.evict h (by omega)).congr (by omega) rfl rfl

theorem LineBefore.steadyStep {i : Nat} (h : LineBefore src dst k n line i L) (hsep : Separate src dst n)
    (hk : 1 ≤ k) (hki : k ≤ i) (hi : i < n) (hstep : steadyStep src dst k i L = .ok M) :
    LineBefore src dst k n line (i + 1) M := by
  obtain ⟨K, hload, hemit⟩ := bind_eq_ok.mp hstep
  have hbefore := (h.evicted hk hki (by omega)).congr (hi' := i) (e' := i - k / 2) rfl (by omega) (by omega)
  have hloaded := hbefore.load hi (by omega) (by omega) (by omega) hload
  have hemitted := hloaded.emit hsep (by omega) (by omega) (by omega) hemit
  exact hemitted.congr rfl (by omega) (by omega)

theorem LineBefore.drainStep {i : Nat} (h : LineBefore src dst k n line i L) (hsep : Separate src dst n)
    (hk : 1 ≤ k) (hkn : k ≤ n) (hni : n ≤ i) (hi : i < n + k) (hstep : drainStep dst k n i L = .ok M) :
    LineBefore src dst k n line (i + 1) M := by
  have hbefore := h.evicted hk (by omega) hi
  unfold Machine.drainStep at hstep
  split at hstep
  · have hready := hbefore.congr (e' := i - k / 2) rfl rfl (by omega)
    have hemitted := hready.emit hsep (by omega) (by omega) (by omega) hstep
    exact hemitted.congr rfl (by omega) (by omega)
  · cases hstep
    exact hbefore.congr rfl (by omega) (by omega)

end

/-! ## The line routine -/

section
variable {src dst : Nat → Nat} {k n : Nat} {line : Nat → Word} {s t : State}

/-- The closed form of the original line stands in the output when the routine completes (R164, R165). -/
theorem boxLine_elem (hsep : Separate src dst n) (hk : 1 ≤ k) (hkn : k ≤ n) (hline : ∀ j < n, s.elem (src j) = line j)
    (h : boxLine src dst k n s = .ok t) : ∀ c < n, t.elem (dst c) = boxAt k n line c := by
  obtain ⟨K, hfill, h⟩ := bind_eq_ok.mp h
  obtain ⟨L, hsteady, h⟩ := bind_eq_ok.mp h
  obtain ⟨M, hdrain, h⟩ := bind_eq_ok.mp h
  cases h
  have hstart : LineBefore src dst k n line 0 (startLine s) :=
    (LineAt.start hline).congr (by omega) (by omega) (by omega)
  have hK := forRange_carries (LineBefore src dst k n line)
    (fun i _ _ _ hi hu hstep => hu.fillStep hsep hkn (by omega) hstep) hstart hfill
  rw [Nat.zero_add] at hK
  have hL := forRange_carries (LineBefore src dst k n line)
    (fun i _ _ hki hi hu hstep => hu.steadyStep hsep hk hki (by omega) hstep) hK hsteady
  rw [Nat.add_sub_cancel' hkn] at hL
  have hM := forRange_carries (LineBefore src dst k n line)
    (fun i _ _ hni hi hu hstep => hu.drainStep hsep hk hkn hni hi hstep) hL hdrain
  exact fun c hc => hM.written c (by omega)

theorem boxLine_completes (hkn : k ≤ n) (hin : ∀ j < n, src j < s.params.memElems ∧ dst j < s.params.memElems) :
    ∃ t, boxLine src dst k n s = .ok t := by
  cases h : boxLine src dst k n s with
  | ok t => exact ⟨t, rfl⟩
  | error f =>
    obtain ⟨a, ha, hout, -⟩ := (boxLine_touches src dst hkn).faults s f h
    rcases ha with ⟨j, hj, rfl⟩ | ⟨j, hj, rfl⟩
    · exact absurd (hin j hj).1 hout.not_gt
    · exact absurd (hin j hj).2 hout.not_gt

end

/-- Settles O35: what the routine touches gives its completion and frame, the invariant between iterations the pixels
(`boxLine_elem`). -/
theorem boxLineGivesTheClosedForm : Obligations.BoxLineGivesTheClosedForm := by
  unfold Obligations.BoxLineGivesTheClosedForm
  intro s src dst k n hk hkn _ hin hinj hplace
  have hsep : Separate src dst n := by
    refine ⟨fun j hj c hc hne heq => ?_, fun j hj c hc hne heq => hne (hinj c hc j hj heq)⟩
    rcases hplace with hsame | hapart
    · exact hne (hinj c hc j hj (heq.trans (hsame j hj)))
    · exact hapart j hj c hc heq.symm
  obtain ⟨t, ht⟩ := boxLine_completes hkn hin
  have hwrites := (boxLine_touches src dst hkn).writes s t ht
  exact ⟨t, ht, ((boxLine_action src dst k n).writes s t ht).frame, boxLine_elem hsep hk hkn (fun _ _ => rfl) ht,
    fun a ha => hwrites.byteAt fun ⟨c, hc, hca⟩ => ha c hc hca.symm⟩

end Sys2Proof.Proofs.BoxLine
end

section
/-! SUPPORT. The passes and the commands of the box filter (`42_box_blur.md` R166 to R174): what a routine makes of the
image in its input region, for one pass, for passes one after the other, and for each command; with the statements that
follow. -/

namespace Sys2Proof.Proofs.BoxPasses

open Sys2Proof.Machine Sys2Proof.Proofs.Commands Sys2Proof.Proofs.PixelMemory Sys2Proof.Proofs.Regions
open Sys2Proof.Proofs.CommandRegions Sys2Proof.Proofs.Surfaces Sys2Proof.Proofs.BoxLine

/-! ## Images -/

/-- An image (R14): the pixel at each coordinate. -/
abbrev Image := Nat → Nat → Word

/-- The `w` by `h` region of `A` holds the image. -/
def Shows (s : State) (A : Surface) (w h : Nat) (img : Image) : Prop := ∀ x < w, ∀ y < h, s.elem (A.addr x y) = img x y

/-- Where the region of `A` shows an image, a run of `g` that completes leaves the region of `B` with its image under
`F`. -/
def Produces (A B : Surface) (w h : Nat) (F : Image → Image) (g : State → Except Fault State) : Prop :=
  ∀ s t img, Shows s A w h img → g s = .ok t → Shows t B w h (F img)

theorem Produces.bind {A B C : Surface} {w h : Nat} {F G : Image → Image} {f g : State → Except Fault State}
    (hf : Produces A B w h F f) (hg : Produces B C w h G g) :
    Produces A C w h (fun img => G (F img)) fun s => (f s).bind g := by
  intro s t img hs ht
  obtain ⟨u, hu, ht⟩ := bind_eq_ok.mp ht
  exact hg u t (F img) (hf s u img hs hu) ht

theorem copyRegion_produces {A B : Surface} {w h : Nat} (hw : w ≤ B.stride)
    (hAB : aliasExactly A B ∨ shareNothing w h A B) : Produces A B w h id (copyRegion A B w h) := by
  intro s t img hs ht
  refine pixelLoop_paints hw (fun x hx y hy u v hpainted hv => ?_) ht
  obtain ⟨-, -, rfl⟩ := mapPixel_eq_ok.mp hv
  rw [hpainted.elem_input hw hAB hx hy, hs x hx y hy]
  rfl

/-! ## A loop of lines -/

theorem elem_of_writesIn {W : Set Nat} {s t : State} (h : WritesIn W s t) {e : Nat} (he : e ∉ W) :
    t.elem e = s.elem e := by
  induction h with
  | refl => rfl
  | tail _ hw ih =>
    obtain ⟨e', he', w, rfl⟩ := hw
    exact (elem_setElem_other _ w (ne_of_mem_of_not_mem he' he).symm).trans ih

/-- The addresses of a loop of lines: pixel `i` of line `l` of the output lies on no other pixel of the input or of the
output. -/
structure SeparateLines (src dst : Nat → Nat → Nat) (count n : Nat) : Prop where
  dst_ne_src : ∀ l < count, ∀ j < n, ∀ l' < count, ∀ c < n, ¬(l' = l ∧ c = j) → dst l' c ≠ src l j
  dst_ne_dst : ∀ l < count, ∀ j < n, ∀ l' < count, ∀ c < n, ¬(l' = l ∧ c = j) → dst l' c ≠ dst l j

section
variable {src dst : Nat → Nat → Nat} {k n count : Nat} {line : Nat → Nat → Word}

theorem SeparateLines.separate (hsep : SeparateLines src dst count n) {l : Nat} (hl : l < count) :
    Separate (src l) (dst l) n where
  dst_ne_src j hj c hc hne := hsep.dst_ne_src l hl j hj l hl c hc fun h => hne h.2
  dst_ne_dst j hj c hc hne := hsep.dst_ne_dst l hl j hj l hl c hc fun h => hne h.2

/-- The lines before `l` are filtered, and those from `l` on are still as they were. -/
structure LinesBefore (src dst : Nat → Nat → Nat) (k n count : Nat) (line : Nat → Nat → Word) (l : Nat) (u : State) :
    Prop where
  filtered : ∀ m < l, ∀ c < n, u.elem (dst m c) = boxAt k n (line m) c
  unread : ∀ m < count, l ≤ m → ∀ j < n, u.elem (src m j) = line m j

theorem LinesBefore.next {l : Nat} {u v : State} (h : LinesBefore src dst k n count line l u)
    (hsep : SeparateLines src dst count n) (hk : 1 ≤ k) (hkn : k ≤ n) (hl : l < count)
    (hline : boxLine (src l) (dst l) k n u = .ok v) : LinesBefore src dst k n count line (l + 1) v := by
  have hkeeps : ∀ e, (∀ c < n, dst l c ≠ e) → v.elem e = u.elem e := fun e he =>
    elem_of_writesIn ((boxLine_touches (src l) (dst l) hkn).writes u v hline) fun ⟨c, hc, hce⟩ => he c hc hce
  refine ⟨fun m hm c hc => ?_, fun m hm hlm j hj => ?_⟩
  · rcases Nat.lt_succ_iff_lt_or_eq.mp hm with hold | rfl
    · rw [hkeeps _ fun c' hc' => hsep.dst_ne_dst m (by omega) c hc l hl c' hc' (by omega)]
      exact h.filtered m hold c hc
    · exact boxLine_elem (hsep.separate hl) hk hkn (h.unread m hl le_rfl) hline c hc
  · rw [hkeeps _ fun c' hc' => hsep.dst_ne_src m hm j hj l hl c' hc' (by omega)]
    exact h.unread m hm (by omega) j hj

/-- A loop of lines filters each line of its input, whichever way the lines run (R167, R168). -/
theorem boxLines_elem {s t : State} (hsep : SeparateLines src dst count n) (hk : 1 ≤ k) (hkn : k ≤ n)
    (hs : ∀ l < count, ∀ j < n, s.elem (src l j) = line l j)
    (h : forRange (fun l => boxLine (src l) (dst l) k n) 0 count s = .ok t) :
    ∀ l < count, ∀ c < n, t.elem (dst l c) = boxAt k n (line l) c := by
  have hstart : LinesBefore src dst k n count line 0 s :=
    ⟨fun m hm => absurd hm (Nat.not_lt_zero m), fun m hm _ => hs m hm⟩
  have hend := forRange_carries (LinesBefore src dst k n count line)
    (fun l _ _ _ hl hu hline => hu.next hsep hk hkn (by omega) hline) hstart h
  exact fun l hl => hend.filtered l (by omega)

end

/-! ## Passes and steps -/

section
variable {A B : Surface} {w h : Nat}

theorem rows_separate (hw : w ≤ B.stride) (hAB : aliasExactly A B ∨ shareNothing w h A B) :
    SeparateLines (fun y i => A.addr i y) (fun y c => B.addr c y) h w where
  dst_ne_src _ hy _ hx _ hy' _ hx' hne := addr_ne_input hw hAB hx hy hx' hy' fun heq => hne heq.symm
  dst_ne_dst _ hy _ hx _ hy' _ hx' hne := addr_ne_input hw (.inl ⟨rfl, rfl⟩) hx hy hx' hy' fun heq => hne heq.symm

theorem columns_separate (hw : w ≤ B.stride) (hAB : aliasExactly A B ∨ shareNothing w h A B) :
    SeparateLines (fun x i => A.addr x i) (fun x c => B.addr x c) w h where
  dst_ne_src _ hx _ hy _ hx' _ hy' hne := addr_ne_input hw hAB hx hy hx' hy' hne
  dst_ne_dst _ hx _ hy _ hx' _ hy' hne := addr_ne_input hw (.inl ⟨rfl, rfl⟩) hx hy hx' hy' hne

theorem rowPass_produces {k : Nat} (hw : w ≤ B.stride) (hAB : aliasExactly A B ∨ shareNothing w h A B) (hk : k ≤ w) :
    Produces A B w h (rowImage k w) (rowPass A B k w h) := by
  intro s t img hs ht x hx y hy
  unfold rowPass at ht
  unfold rowImage lineImage
  split at ht
  · rename_i hcopy
    rw [if_pos hcopy]
    exact copyRegion_produces hw hAB s t img hs ht x hx y hy
  · rename_i hfilter
    rw [if_neg hfilter]
    exact boxLines_elem (rows_separate hw hAB) (Nat.pos_of_ne_zero hfilter) hk (fun y hy x hx => hs x hx y hy) ht
      y hy x hx

theorem colPass_produces {k : Nat} (hw : w ≤ B.stride) (hAB : aliasExactly A B ∨ shareNothing w h A B) (hk : k ≤ h) :
    Produces A B w h (colImage k h) (colPass A B k w h) := by
  intro s t img hs ht x hx y hy
  unfold colPass at ht
  unfold colImage lineImage
  split at ht
  · rename_i hcopy
    rw [if_pos hcopy]
    exact copyRegion_produces hw hAB s t img hs ht x hx y hy
  · rename_i hfilter
    rw [if_neg hfilter]
    exact boxLines_elem (columns_separate hw hAB) (Nat.pos_of_ne_zero hfilter) hk hs ht x hx y hy

/-- The column pass runs in place on what the row pass wrote (R169). -/
theorem boxStep_produces {kx ky : Nat} (hw : w ≤ B.stride) (hAB : aliasExactly A B ∨ shareNothing w h A B) (hx : kx ≤ w)
    (hy : ky ≤ h) : Produces A B w h (stepImage kx ky w h) (boxStep A B kx ky w h) :=
  (rowPass_produces hw hAB hx).bind (colPass_produces hw (.inl ⟨rfl, rfl⟩) hy)

theorem threeSteps_produces {kx ky : Nat} (hw : w ≤ B.stride) (hAB : aliasExactly A B ∨ shareNothing w h A B)
    (hx : kx ≤ w) (hy : ky ≤ h) :
    Produces A B w h
      (fun img => stepImage kx ky w h (stepImage kx ky w h (stepImage kx ky w h img)))
      (threeSteps A B kx ky w h) :=
  have again := boxStep_produces (A := B) hw (.inl ⟨rfl, rfl⟩) hx hy
  (boxStep_produces hw hAB hx hy).bind (again.bind again)

end

/-! ## Commands -/

/-- A command that runs a routine from S0 to S2 delivers what the routine makes of S0's image. -/
theorem completesWith_of_produces {i : Instr} {s : State} {F : Image → Image} {g : State → Except Fault State}
    (hd : isDataCommand i = true) (hin : InMemory i s) (hexec : exec i s = finish (g (latched i s)))
    (hg : Produces (surf s .s0) (surf s .s2) (effSize i s).1 (effSize i s).2 F g) :
    CompletesWith i s (F (inputImage s .s0)) :=
  completesWith_of_elems hd hin fun t ht =>
    hg (latched i s) t (inputImage s .s0) (fun _ _ _ _ => rfl) (finish_eq_next.mp (hexec.symm.trans ht))

/-- Settles O36: `BOXH` runs one row pass (`rowPass_produces`), its kernel capped by the width. -/
theorem boxhFiltersEveryRow : Obligations.BoxhFiltersEveryRow := by
  unfold Obligations.BoxhFiltersEveryRow
  rintro s ⟨hin, hstride, halias⟩
  exact completesWith_of_produces rfl hin rfl
    (rowPass_produces hstride (halias .s0 List.mem_cons_self) (usedKernels_le_effSize .boxh s).1)

/-- Settles O37: `BOXV` runs one column pass (`colPass_produces`), its kernel capped by the height. -/
theorem boxvFiltersEveryColumn : Obligations.BoxvFiltersEveryColumn := by
  unfold Obligations.BoxvFiltersEveryColumn
  rintro s ⟨hin, hstride, halias⟩
  exact completesWith_of_produces rfl hin rfl
    (colPass_produces hstride (halias .s0 List.mem_cons_self) (usedKernels_le_effSize .boxv s).2)

/-- Settles O38: `BOXHV` runs one box step (`boxStep_produces`). -/
theorem boxhvFiltersRowsThenColumns : Obligations.BoxhvFiltersRowsThenColumns := by
  unfold Obligations.BoxhvFiltersRowsThenColumns
  rintro s ⟨hin, hstride, halias⟩
  obtain ⟨hx, hy⟩ := usedKernels_le_effSize .boxhv s
  exact completesWith_of_produces rfl hin rfl (boxStep_produces hstride (halias .s0 List.mem_cons_self) hx hy)

theorem stepImage_zero (w h : Nat) (img : Image) : stepImage 0 0 w h img = img := rfl

/-- Settles O39: the copy of R173 is three steps with both kernels 0. -/
theorem gblurIsThreeBoxSteps : Obligations.GblurIsThreeBoxSteps := by
  unfold Obligations.GblurIsThreeBoxSteps
  rintro s ⟨hin, hstride, halias⟩ w h stepOf
  obtain ⟨hx, hy⟩ := usedKernels_le_effSize .gblur s
  have hsep := halias .s0 List.mem_cons_self
  refine completesWith_of_produces (F := fun img => stepOf (stepOf (stepOf img))) rfl hin (exec_gblur s)
    fun u t img hu ht => ?_
  unfold gblurRoutine at ht
  split at ht
  · rename_i hcopy
    have hstep : stepOf = id := by
      simp only [stepOf, capK_of_nonpos hcopy.1, capK_of_nonpos hcopy.2]
      exact funext (stepImage_zero w h)
    rw [hstep]
    exact copyRegion_produces hstride hsep u t img hu ht
  · exact threeSteps_produces hstride hsep hx hy u t img hu ht

/-! ## Both deviations zero (R174) -/

theorem kernelFromStd_zero : kernelFromStd 0 = 0 := by decide +kernel

/-- Settles O40: `GBLUR` makes the accesses of `COPY` with another `LASTK` latched, at which no access looks. -/
theorem gblurOfZeroDeviationsIsCopy : Obligations.GblurOfZeroDeviationsIsCopy := by
  unfold Obligations.GblurOfZeroDeviationsIsCopy
  intro s t hx hy ht
  have hexec : exec .gblur s = finish
      (copyRegion (surf s .s0) (surf s .s2) (sizeOne s).1 (sizeOne s).2 (latchKernels s 0 0)) := by
    change execGblur s = _
    rw [execGblur, hx, hy, kernelFromStd_zero]
    exact if_pos ⟨le_rfl, le_rfl⟩
  have haction := copyRegion_action (surf s .s0) (surf s .s2) (sizeOne s).1 (sizeOne s).2
  have hcopy := finish_eq_next.mp ht
  have hregs := haction.ignoresRegs (latchKernels s 0 0) (latchSize s (sizeOne s))
  have hframe : t = { latchSize s (sizeOne s) with mem := t.mem } := (haction.writes _ t hcopy).frame
  have hlatched : withRegs (latchKernels s 0 0) t = { t with lastk := 0 } := by
    rw [hframe]
    rfl
  rw [hexec, finish_eq_next, ← hlatched]
  exact hregs.trans (congrArg _ hcopy)

end Sys2Proof.Proofs.BoxPasses
end

section
/-! SUPPORT. The blend unit (`43_blend.md` R190 to R208): what a two-input command writes, the rounding division by 255,
the skeleton that every mode fills with its channel function, and the pixels that a mode leaves alone; with the
statements that follow. -/

namespace Sys2Proof.Proofs.Blend

open Sys2Proof.Machine Sys2Proof.Proofs.PixelMemory Sys2Proof.Proofs.Codec
open Sys2Proof.Proofs.Surfaces

/-! ## Two-input commands -/

/-- A two-input per-pixel command writes its function of each source and backdrop pixel (R110, R111, R192). -/
theorem twoInputGives_of_exec {i : Instr} {pre : State → Prop} {F : State → Word → Word → Word}
    (hu : usedSlots i = [.s0, .s1, .s2]) (hexec : ∀ s, pre s → exec i s = twoInput (F s) s) :
    TwoInputGives i pre F := by
  rintro s hpre ⟨hin, hstride, halias⟩
  have hsize : effSize i s = sizeTwo s := by
    simp only [effSize, hu]
    rfl
  refine completesWith_of_elems (by simp [isDataCommand, hu]) hin fun t ht => ?_
  rw [hexec s hpre, twoInput, finish_eq_next, ← hsize] at ht
  refine pixelLoop_paints hstride (fun x hx y hy u v hpainted hv => ?_) ht
  obtain ⟨-, -, -, rfl⟩ := zipPixel_eq_ok.mp hv
  rw [hpainted.elem_input hstride (halias .s0 (by simp [hu])) hx hy,
    hpainted.elem_input hstride (halias .s1 (by simp [hu])) hx hy]
  rfl

/-- A mode whose channel function depends on the filling of `BLEND_FN`, in states that have a known filling (D22). -/
theorem blendFill_gives {i : Instr} (G : BlendFill → ChannelFn) (fill : BlendFill)
    (hu : usedSlots i = [.s0, .s1, .s2])
    (hexec : ∀ s, exec i s = twoInput (blendPixel (G s.params.blendFill)) s) :
    TwoInputGives i (fun s => s.params.blendFill = fill) fun _ => blendPixel (G fill) :=
  twoInputGives_of_exec hu fun s hfill => by rw [hexec, hfill]

/-! ## Division by 255 (R190) -/

theorem div255_eq (x : Int) : div255 x = (x + x / 256 + 128) / 256 := rfl

theorem div255_mono {x y : Int} (h : x ≤ y) : div255 x ≤ div255 y := by
  rw [div255_eq, div255_eq]
  omega

/-- The shifted term brings `255 * n` up to `256 * n`, short only of what the added 128 makes good. -/
theorem div255_mul {n : Int} (hlow : -32767 ≤ n) (hhigh : n ≤ 32768) : div255 (255 * n) = n := by
  rw [div255_eq]
  omega

@[simp] theorem div255_zero : div255 0 = 0 := rfl

@[simp] theorem div255_byte_mul (c : Byte) : div255 (c.toNat * 255) = c.toNat := by
  rw [mul_comm, div255_mul (by omega) (by omega)]

/-- Settles O25. -/
theorem div255IsMonotoneAndExactOnMultiples : Obligations.Div255IsMonotoneAndExactOnMultiples := by
  unfold Obligations.Div255IsMonotoneAndExactOnMultiples
  refine ⟨fun x => ?_, fun _ _ => div255_mono, fun n hn => div255_mul (by omega) (by omega)⟩
  have hshift : ∀ v : ℤ, ⌊(v : ℚ) / 256⌋ = v / 256 := fun v => Rat.floor_intCast_div_natCast v 256
  rw [hshift, hshift, div255_eq]

/-! ## The alpha of a blend (R191) -/

theorem blendAlpha_comm (sa da : Int) : blendAlpha sa da = blendAlpha da sa := by
  rw [blendAlpha, blendAlpha, add_comm, mul_comm]

@[simp] theorem blendAlpha_transparent (da : Int) : blendAlpha 0 da = da := by
  simp [blendAlpha]

theorem blendAlpha_opaque (da : Byte) : blendAlpha 255 da.toNat = 255 := by
  rw [blendAlpha, mul_comm 255, div255_byte_mul]
  omega

/-- The product of two bytes is at most 255 times the one, and at least 255 times what their sum exceeds 255 by. -/
theorem blendAlpha_mem (sa da : Byte) :
    0 ≤ blendAlpha sa.toNat da.toNat ∧ blendAlpha sa.toNat da.toNat ≤ 255 := by
  have hsa : (sa.toNat : ℤ) ≤ 255 := by omega
  have hda : (da.toNat : ℤ) ≤ 255 := by omega
  have hupper : div255 (sa.toNat * da.toNat) ≤ sa.toNat :=
    calc div255 (sa.toNat * da.toNat) ≤ div255 (sa.toNat * 255) :=
          div255_mono (mul_le_mul_of_nonneg_left hda (by omega))
      _ = sa.toNat := div255_byte_mul sa
  have hlower : (sa.toNat + da.toNat - 255 : ℤ) ≤ div255 (sa.toNat * da.toNat) :=
    calc (sa.toNat + da.toNat - 255 : ℤ) = div255 (255 * (sa.toNat + da.toNat - 255)) :=
          (div255_mul (by omega) (by omega)).symm
      _ ≤ div255 (sa.toNat * da.toNat) := div255_mono (by nlinarith)
  rw [blendAlpha]
  omega

theorem clampI_blendAlpha (sa da : Byte) :
    ((clampI (blendAlpha sa.toNat da.toNat)).toNat : ℤ) = blendAlpha sa.toNat da.toNat := by
  have hmem := blendAlpha_mem sa da
  rw [clampI_toNat]
  omega

/-- Settles O26; the clauses about the backdrop's alpha are those about the source's, by symmetry. -/
theorem blendAlphaIsAlreadyAByte : Obligations.BlendAlphaIsAlreadyAByte := by
  unfold Obligations.BlendAlphaIsAlreadyAByte
  intro sa da
  obtain ⟨hlow, hhigh⟩ := blendAlpha_mem sa da
  exact ⟨rfl, hlow, hhigh, blendAlpha_opaque da, blendAlpha_comm _ _ ▸ blendAlpha_opaque sa,
    blendAlpha_transparent _, blendAlpha_comm _ _ ▸ blendAlpha_transparent _⟩

/-! ## The skeleton (R192) -/

/-- Settles O44: packing loses nothing, and the clamp of the alpha changes nothing (`blendAlpha_mem`). -/
theorem blendSkeletonChannelByChannel : Obligations.BlendSkeletonChannelByChannel := by
  unfold Obligations.BlendSkeletonChannelByChannel
  intro f p q
  simp only [blendPixel, unpack_pack]
  exact ⟨clampI_blendAlpha _ _, clampI_toNat _, clampI_toNat _, clampI_toNat _⟩

/-! ## The twelve modes -/

/-- Settles O43: the model's three functions are the formulas of R195 to R197, written out. -/
theorem blendModesTheSourceGives : Obligations.BlendModesTheSourceGives := by
  unfold Obligations.BlendModesTheSourceGives
  exact ⟨⟨rfl, rfl, rfl⟩, twoInputGives_of_exec rfl fun _ _ => rfl, twoInputGives_of_exec rfl fun _ _ => rfl,
    twoInputGives_of_exec rfl fun _ _ => rfl⟩

/-- Settles O45: under the defaults each mode's function is its formula of R198 to R206, written out. -/
theorem blendModesUnderTheDefaults : Obligations.BlendModesUnderTheDefaults := by
  unfold Obligations.BlendModesUnderTheDefaults
  exact ⟨blendFill_gives fnOverlay .defaults rfl fun _ => rfl, blendFill_gives fnHardlight .defaults rfl fun _ => rfl,
    blendFill_gives fnDarken .defaults rfl fun _ => rfl, blendFill_gives fnLighten .defaults rfl fun _ => rfl,
    blendFill_gives fnDodge .defaults rfl fun _ => rfl, blendFill_gives fnBurn .defaults rfl fun _ => rfl,
    blendFill_gives fnDifference .defaults rfl fun _ => rfl, blendFill_gives fnExclusion .defaults rfl fun _ => rfl⟩

/-- Settles O46: soft-light does not look at the filling; under the custom filling the others are the free functions. -/
theorem blendModesOfAnOpenParameter : Obligations.BlendModesOfAnOpenParameter := by
  unfold Obligations.BlendModesOfAnOpenParameter
  exact ⟨twoInputGives_of_exec rfl fun _ _ => rfl,
    blendFill_gives fnOverlay .custom rfl fun _ => rfl, blendFill_gives fnHardlight .custom rfl fun _ => rfl,
    blendFill_gives fnDarken .custom rfl fun _ => rfl, blendFill_gives fnLighten .custom rfl fun _ => rfl,
    blendFill_gives fnDodge .custom rfl fun _ => rfl, blendFill_gives fnBurn .custom rfl fun _ => rfl,
    blendFill_gives fnDifference .custom rfl fun _ => rfl, blendFill_gives fnExclusion .custom rfl fun _ => rfl⟩

/-! ## Transparent pixels (R207) -/

/-- A channel function that gives the other channel where one pixel is `0x00000000`. -/
structure NeutralAtZero (f : ChannelFn) : Prop where
  source : ∀ d da : Byte, f 0 d.toNat 0 da.toNat = d.toNat
  backdrop : ∀ s sa : Byte, f s.toNat 0 sa.toNat 0 = s.toNat

@[simp] theorem unpack_zero : unpack 0#32 = ⟨0, 0, 0, 0⟩ := by decide

@[simp] theorem clampI_byte (c : Byte) : clampI c.toNat = c := by
  have hclamp := clampI_toNat c.toNat
  apply BitVec.eq_of_toNat_eq
  omega

@[simp] theorem pack_channels (p : Word) : pack ⟨(unpack p).a, (unpack p).r, (unpack p).g, (unpack p).b⟩ = p :=
  pack_unpack p

theorem NeutralAtZero.blendPixel_source {f : ChannelFn} (hf : NeutralAtZero f) (p : Word) : blendPixel f 0 p = p := by
  simp [blendPixel, hf.source]

theorem NeutralAtZero.blendPixel_backdrop {f : ChannelFn} (hf : NeutralAtZero f) (p : Word) :
    blendPixel f p 0 = p := by
  simp [blendPixel, hf.backdrop, blendAlpha_comm _ 0]

theorem fnNormal_neutral : NeutralAtZero fnNormal where
  source d da := by simp [fnNormal]
  backdrop s sa := by simp [fnNormal]

theorem fnMultiply_neutral : NeutralAtZero fnMultiply where
  source d da := by simp [fnMultiply]
  backdrop s sa := by simp [fnMultiply]

theorem fnScreen_neutral : NeutralAtZero fnScreen where
  source d da := by simp [fnScreen]
  backdrop s sa := by simp [fnScreen]

theorem overlayLow_neutral : NeutralAtZero (overlayLow .defaults) where
  source d da := by simp [overlayLow, uncovered]
  backdrop s sa := by simp [overlayLow, uncovered]

theorem overlayHigh_neutral : NeutralAtZero (overlayHigh .defaults) where
  source d da := by simp [overlayHigh, uncovered]
  backdrop s sa := by simp [overlayHigh, uncovered]

/-- A function that chooses between two neutral ones is neutral, whatever the condition. -/
theorem NeutralAtZero.ite {f g : ChannelFn} (hf : NeutralAtZero f) (hg : NeutralAtZero g)
    (c : Int → Int → Int → Int → Prop) [∀ s d sa da, Decidable (c s d sa da)] :
    NeutralAtZero fun s d sa da => if c s d sa da then f s d sa da else g s d sa da where
  source d da := by rw [hf.source, hg.source, ite_self]
  backdrop s sa := by rw [hf.backdrop, hg.backdrop, ite_self]

theorem fnOverlay_neutral : NeutralAtZero (fnOverlay .defaults) :=
  overlayLow_neutral.ite overlayHigh_neutral fun _ d _ da => 2 * d ≤ da

theorem fnHardlight_neutral : NeutralAtZero (fnHardlight .defaults) :=
  overlayLow_neutral.ite overlayHigh_neutral fun s _ sa _ => 2 * s ≤ sa

/-- The products that darken and lighten compare are both 0, so both take the backdrop's expression. -/
theorem fnDarken_neutral : NeutralAtZero (fnDarken .defaults) where
  source d da := by simp [fnDarken]
  backdrop s sa := by simp [fnDarken]

theorem fnLighten_neutral : NeutralAtZero (fnLighten .defaults) where
  source d da := by simp [fnLighten]
  backdrop s sa := by simp [fnLighten]

/-- Neither pixel reaches the division: a transparent source meets `sa ≤ s`, a transparent backdrop `d = 0`. -/
theorem fnDodge_neutral : NeutralAtZero (fnDodge .defaults) where
  source d da := by
    by_cases hd : d.toNat = 0
    · simp [fnDodge, hd]
    · simp [fnDodge, uncovered, hd]
  backdrop s sa := by simp [fnDodge]

/-- Neither pixel reaches the division: a transparent source meets `s = 0`, a transparent backdrop `da ≤ d`. -/
theorem fnBurn_neutral : NeutralAtZero (fnBurn .defaults) where
  source d da := by simp [fnBurn, uncovered]
  backdrop s sa := by simp [fnBurn, uncovered]

theorem fnDifference_neutral : NeutralAtZero (fnDifference .defaults) where
  source d da := by simp [fnDifference]
  backdrop s sa := by simp [fnDifference]

theorem fnExclusion_neutral : NeutralAtZero (fnExclusion .defaults) where
  source d da := by simp [fnExclusion]
  backdrop s sa := by simp [fnExclusion]

/-- Settles O47: every formula of the list is neutral, and so is the alpha. -/
theorem transparentPixelsAreNeutralInBlends : Obligations.TransparentPixelsAreNeutralInBlends := by
  unfold Obligations.TransparentPixelsAreNeutralInBlends
  intro f hf p
  have hneutral : NeutralAtZero f := by
    simp only [List.mem_cons, List.not_mem_nil, or_false] at hf
    rcases hf with rfl | rfl | rfl | rfl | rfl | rfl | rfl | rfl | rfl | rfl | rfl
    · exact fnNormal_neutral
    · exact fnMultiply_neutral
    · exact fnScreen_neutral
    · exact fnOverlay_neutral
    · exact fnHardlight_neutral
    · exact fnDarken_neutral
    · exact fnLighten_neutral
    · exact fnDodge_neutral
    · exact fnBurn_neutral
    · exact fnDifference_neutral
    · exact fnExclusion_neutral
  exact ⟨hneutral.blendPixel_source p, hneutral.blendPixel_backdrop p⟩

/-! ## Normal and over (R208) -/

/-- The quotients of `x` and of its complement to `255 * n` add up to `n`, or by their rounding to one less (C6). -/
theorem div255_complement {n x : Int} (hn : n ≤ 255) (hlow : 0 ≤ x) (hhigh : x ≤ 255 * n) :
    n - 1 ≤ div255 x + div255 (255 * n - x) ∧ div255 x + div255 (255 * n - x) ≤ n := by
  rcases eq_or_lt_of_le (show 0 ≤ n by omega) with rfl | hpos
  · obtain rfl : x = 0 := by omega
    decide
  · have hshift : x / 256 + (255 * n - x) / 256 ≤ n - 1 := by omega
    rw [div255_eq, div255_eq]
    omega

/-- Over's alpha formula subtracts the quotient from `da` before it rounds, the blend's after (C6). -/
theorem blendAlpha_near_eOver (sa da : Byte) :
    eOver sa.toNat da.toNat sa.toNat da.toNat ≤ blendAlpha sa.toNat da.toNat ∧
      blendAlpha sa.toNat da.toNat ≤ eOver sa.toNat da.toNat sa.toNat da.toNat + 1 := by
  have hproduct : (sa.toNat * da.toNat : ℤ) ≤ 255 * da.toNat := mul_le_mul_of_nonneg_right (by omega) (by omega)
  have hsum := div255_complement (by omega) (by positivity) hproduct
  have hcomplement : (da.toNat * (255 - sa.toNat) : ℤ) = 255 * da.toNat - sa.toNat * da.toNat := by ring
  rw [eOver, blendAlpha, hcomplement]
  omega

/-- Settles O48: the colours have one formula, and the alphas differ as `blendAlpha_near_eOver` says. -/
theorem normalAndOverAgreeButForOneAlphaStep : Obligations.NormalAndOverAgreeButForOneAlphaStep := by
  unfold Obligations.NormalAndOverAgreeButForOneAlphaStep
  intro p q
  simp only [blendPixel, compPixel, unpack_pack]
  have halpha := blendAlpha_near_eOver (unpack p).a (unpack q).a
  have hblend := clampI_blendAlpha (unpack p).a (unpack q).a
  have hover := clampI_toNat (eOver (unpack p).a.toNat (unpack q).a.toNat (unpack p).a.toNat (unpack q).a.toNat)
  exact ⟨rfl, rfl, rfl, by omega, by omega⟩

end Sys2Proof.Proofs.Blend
end

section
/-! SUPPORT. The composite unit (`44_composite.md` R220 to R230): the five operators channel by channel, and the
arithmetic compositor under coefficients that are integers, where the binary32 arithmetic of R230 is exact; with the
statements that follow. -/

namespace Sys2Proof.Proofs.Composite

open Sys2Proof.Machine Sys2Proof.Proofs.Float Sys2Proof.Proofs.PixelMemory Sys2Proof.Proofs.Codec
open Sys2Proof.Proofs.ColorMatrix Sys2Proof.Proofs.BoxLine Sys2Proof.Proofs.Blend

/-! ## The commands apply their function to each pair of pixels -/

/-- `ARITH` reads its coefficients once, before the loop, so the function is that of the state before the command. -/
theorem arith_gives : TwoInputGives .arith (fun _ => True) fun s =>
    arithPixel (f32OfBits s.k1) (f32OfBits s.k2) (f32OfBits s.k3) (f32OfBits s.k4) :=
  twoInputGives_of_exec rfl fun _ _ => rfl

/-- Settles O49: the model's five operators are the formulas of R222 to R226, written out. -/
theorem porterDuffOperators : Obligations.PorterDuffOperators := by
  unfold Obligations.PorterDuffOperators
  exact ⟨⟨rfl, rfl, rfl, rfl, rfl⟩, twoInputGives_of_exec rfl fun _ _ => rfl, twoInputGives_of_exec rfl fun _ _ => rfl,
    twoInputGives_of_exec rfl fun _ _ => rfl, twoInputGives_of_exec rfl fun _ _ => rfl,
    twoInputGives_of_exec rfl fun _ _ => rfl⟩

/-- Settles O51: the model's function of two pixels is R230's, with its order of operations written out. -/
theorem arithEvaluatesItsFormula : Obligations.ArithEvaluatesItsFormula := by
  unfold Obligations.ArithEvaluatesItsFormula
  exact ⟨rfl, arith_gives⟩

/-! ## The operators on opaque and transparent pixels -/

/-- The pixel is `unpack 0`, in the form that `unpack_zero` gives it. -/
theorem channel_zero {ch : Pixel → Nat} (hch : ch ∈ channels) : ch ⟨0#8, 0#8, 0#8, 0#8⟩ = 0 := by
  revert ch
  decide

theorem channel_white {ch : Pixel → Nat} (hch : ch ∈ channels) : ch (unpack 0xFFFFFFFF#32) = 255 := by
  revert ch
  decide

theorem div255_channel {ch : Pixel → Nat} (hch : ch ∈ channels) (q : Pixel) : div255 (ch q * 255) = ch q := by
  have hle := channel_le hch q
  rw [mul_comm, div255_mul (by omega) (by omega)]

/-- One formula serves alpha and the colours (R221). -/
theorem channel_compPixel {ch : Pixel → Nat} (hch : ch ∈ channels) (e : ChannelFn) (p q : Word) :
    ch (unpack (compPixel e p q)) =
      (clampI (e (ch (unpack p)) (ch (unpack q)) (unpack p).a.toNat (unpack q).a.toNat)).toNat := by
  rw [compPixel, unpack_pack]
  simp only [channels, List.mem_cons, List.not_mem_nil, or_false] at hch
  rcases hch with rfl | rfl | rfl | rfl <;> rfl

/-- A pixel whose channels are the operator's values is its result: values that are bytes are not clamped. -/
theorem compPixel_eq {e : ChannelFn} {p q r : Word}
    (h : ∀ ch ∈ channels, e (ch (unpack p)) (ch (unpack q)) (unpack p).a.toNat (unpack q).a.toNat = ch (unpack r)) :
    compPixel e p q = r := by
  refine word_eq_of_channels fun ch hch => ?_
  have hle := channel_le hch (unpack r)
  have hclamp := clampI_toNat (ch (unpack r))
  rw [channel_compPixel hch, h ch hch]
  omega

section
variable {p q : Word}

theorem over_opaque_source (hp : (unpack p).a = 255) : compPixel eOver p q = p :=
  compPixel_eq fun _ _ => by simp [eOver, hp]

theorem over_transparent_source : compPixel eOver 0 q = q :=
  compPixel_eq fun _ hch => by simp [eOver, channel_zero hch, div255_channel hch]

theorem in_transparent_backdrop (hq : (unpack q).a = 0) : compPixel eIn p q = 0 :=
  compPixel_eq fun _ hch => by simp [eIn, hq, channel_zero hch]

theorem in_opaque_backdrop (hq : (unpack q).a = 255) : compPixel eIn p q = p :=
  compPixel_eq fun _ hch => by simp [eIn, hq, div255_channel hch]

theorem out_opaque_backdrop (hq : (unpack q).a = 255) : compPixel eOut p q = 0 :=
  compPixel_eq fun _ hch => by simp [eOut, hq, channel_zero hch]

theorem out_transparent_backdrop (hq : (unpack q).a = 0) : compPixel eOut p q = p :=
  compPixel_eq fun _ hch => by simp [eOut, hq, div255_channel hch]

theorem atop_alpha : (unpack (atopPixel p q)).a = (unpack q).a := by
  rw [atopPixel, unpack_pack, clampI_byte]

theorem xor_opaque_pixels (hp : (unpack p).a = 255) (hq : (unpack q).a = 255) : compPixel eXor p q = 0 :=
  compPixel_eq fun _ hch => by simp [eXor, hp, hq, channel_zero hch]

theorem xor_transparent_backdrop : compPixel eXor p 0 = p :=
  compPixel_eq fun _ hch => by simp [eXor, channel_zero hch, div255_channel hch]

theorem xor_transparent_source : compPixel eXor 0 q = q :=
  compPixel_eq fun _ hch => by simp [eXor, channel_zero hch, div255_channel hch]

end

/-- Settles O50: an alpha of 255 or 0 makes each factor 255 or 0, which `div255` divides exactly. -/
theorem porterDuffCornerCases : Obligations.PorterDuffCornerCases := by
  unfold Obligations.PorterDuffCornerCases
  exact fun p q => ⟨over_opaque_source, over_transparent_source, in_transparent_backdrop, in_opaque_backdrop,
    out_opaque_backdrop, out_transparent_backdrop, atop_alpha, xor_opaque_pixels, xor_transparent_backdrop,
    xor_transparent_source⟩

/-! ## Integers in binary32

`Denotes` for integers of both signs: those of magnitude below `2^24` are data, so a sum or product of two of them that
stays below is not rounded. -/

/-- A finite datum whose value is the integer `z`. -/
structure DenotesInt (v : Flt) (z : ℤ) : Prop where
  finite : fltFinite v = true
  value : fltValue v = z

theorem denotesInt_of_denotes {v : Flt} {n : ℕ} (h : Denotes v n) : DenotesInt v n :=
  ⟨h.finite, by simpa using h.value⟩

theorem denotesInt_byte (c : Byte) : DenotesInt (f32OfInt c.toNat) c.toNat :=
  denotesInt_of_denotes (denotes_f32OfInt (by omega))

theorem denotesInt_arith255 : DenotesInt arith255 255 :=
  denotesInt_of_denotes (denotes_f32OfInt (n := 255) (by decide))

theorem denotesInt_zero : DenotesInt (f32OfBits 0) 0 := denotesInt_of_denotes denotes_zero

theorem denotesInt_one : DenotesInt (f32OfBits 0x3F800000#32) 1 := by
  simpa using denotesInt_of_denotes denotes_one

theorem denotesInt_neg_one : DenotesInt (f32OfBits 0xBF800000#32) (-1) := by
  have hfields : f32OfBits 0xBF800000#32 = .fin true (2 ^ 23) (-23) := by decide
  rw [hfields]
  exact ⟨rfl, by norm_num [fltValue_fin]⟩

theorem denotesInt_of_roundsOnce {r : Flt} {z : ℤ} (h : RoundsOnce z r) (hz : |z| < 2 ^ 24) : DenotesInt r z := by
  have hzQ : |(z : ℚ)| < 2 ^ 24 := by exact_mod_cast hz
  have hnear : NearestEven binary32 z r := h.1 (by linarith)
  have hdatum : fltDatum binary32 (.fin (decide (z < 0)) z.natAbs 0) := by
    refine ⟨?_, by decide, by decide⟩
    rw [Int.abs_eq_natAbs] at hz
    exact_mod_cast hz
  have hvalue : fltValue (.fin (decide (z < 0)) z.natAbs 0) = z := by
    rw [fltValue_fin, zpow_zero, mul_one, signRat_decide_mul_natAbs]
  exact ⟨fltFinite_of_datum hnear.1, fltValue_eq_of_nearestEven_datum hnear hdatum hvalue⟩

theorem DenotesInt.fadd {a b : Flt} {x y : ℤ} (ha : DenotesInt a x) (hb : DenotesInt b y) (hlt : |x + y| < 2 ^ 24) :
    DenotesInt (fadd a b) (x + y) := by
  refine denotesInt_of_roundsOnce ?_ hlt
  rw [Int.cast_add, ← ha.value, ← hb.value]
  exact (finite_operands_round_once a b ha.finite hb.finite).1

theorem DenotesInt.fmul {a b : Flt} {x y : ℤ} (ha : DenotesInt a x) (hb : DenotesInt b y) (hlt : |x * y| < 2 ^ 24) :
    DenotesInt (fmul a b) (x * y) := by
  refine denotesInt_of_roundsOnce ?_ hlt
  rw [Int.cast_mul, ← ha.value, ← hb.value]
  exact (finite_operands_round_once a b ha.finite hb.finite).2.1

/-- A zero factor makes the product zero, whatever finite number the other one is. -/
theorem DenotesInt.zero_fmul {a b : Flt} (ha : DenotesInt a 0) (hb : fltFinite b = true) :
    DenotesInt (Machine.fmul a b) 0 := by
  refine denotesInt_of_roundsOnce ?_ (by norm_num)
  have hround := (finite_operands_round_once a b ha.finite hb).2.1
  rwa [ha.value, Int.cast_zero, zero_mul] at hround

/-- On integers the two clamps of R103 and R104 agree. -/
theorem DenotesInt.clampF {v : Flt} {z : ℤ} (h : DenotesInt v z) : clampF v = clampI z := by
  have hclamp := clampI_toNat z
  apply BitVec.eq_of_toNat_eq
  rcases lt_or_ge z 0 with hneg | hnonneg
  · have hbyte : Machine.clampF v = 0#8 := clampF_of_neg h.finite (by rw [h.value]; exact_mod_cast hneg)
    rw [hbyte, BitVec.toNat_ofNat]
    omega
  · have hbyte := clampF_toNat_of_nonneg h.finite (by rw [h.value]; exact_mod_cast hnonneg)
    rw [h.value, Int.floor_intCast] at hbyte
    omega

/-! ## A channel of `ARITH` under integer coefficients -/

theorem abs_mul_le_of_le_255 (z : ℤ) {n : ℤ} (h0 : 0 ≤ n) (hn : n ≤ 255) : |z * n| ≤ 255 * |z| := by
  rw [abs_mul, abs_of_nonneg h0, mul_comm]
  exact mul_le_mul_of_nonneg_right hn (abs_nonneg z)

/-- The quotient `s*d/255` is at most 255, so no infinity meets the coefficient `k1`. -/
theorem quotient_finite (s d : Byte) :
    fltFinite (fdiv (fmul (f32OfInt s.toNat) (f32OfInt d.toNat)) arith255) = true := by
  have hle : (s.toNat * d.toNat : ℤ) ≤ 255 * 255 := mul_le_mul (by omega) (by omega) (by omega) (by decide)
  have hnonneg : (0 : ℤ) ≤ s.toNat * d.toNat := by positivity
  have hprod := (denotesInt_byte s).fmul (denotesInt_byte d) (by rw [abs_of_nonneg hnonneg]; omega)
  obtain ⟨-, -, hquot, -⟩ := finite_operands_round_once _ _ hprod.finite denotesInt_arith255.finite
  obtain ⟨hnear, -⟩ := hquot (by rw [denotesInt_arith255.value]; norm_num)
  refine fltFinite_of_datum (hnear ?_).1
  have hleQ : (s.toNat * d.toNat : ℚ) ≤ 255 * 255 := by exact_mod_cast hle
  rw [hprod.value, denotesInt_arith255.value]
  push_cast
  rw [abs_of_nonneg (by positivity)]
  linarith

/-- The coefficients of `ARITH` as integers, the first of them zero and the others too small for any sum to round. -/
structure IntegerCoefficients (k1 k2 k3 k4 : Word) (z2 z3 z4 : ℤ) : Prop where
  first : DenotesInt (f32OfBits k1) 0
  second : DenotesInt (f32OfBits k2) z2
  third : DenotesInt (f32OfBits k3) z3
  fourth : DenotesInt (f32OfBits k4) z4
  small : 255 * (|z2| + |z3| + |z4|) < 2 ^ 24

section
variable {k1 k2 k3 k4 : Word} {z2 z3 z4 : ℤ}

/-- Every product and every partial sum of R230 stays below `2^24`, so none is rounded. -/
theorem IntegerCoefficients.arithChannel_eq (h : IntegerCoefficients k1 k2 k3 k4 z2 z3 z4) (s d : Byte) :
    arithChannel (f32OfBits k1) (f32OfBits k2) (f32OfBits k3) (f32OfBits k4) s d =
      clampI (z2 * s.toNat + z3 * d.toNat + z4 * 255) := by
  have hsmall := h.small
  have hs : |z2 * s.toNat| ≤ 255 * |z2| := abs_mul_le_of_le_255 z2 (by omega) (by omega)
  have hd : |z3 * d.toNat| ≤ 255 * |z3| := abs_mul_le_of_le_255 z3 (by omega) (by omega)
  have hw : |z4 * 255| ≤ 255 * |z4| := abs_mul_le_of_le_255 z4 (by decide) le_rfl
  have hsd := abs_add_le (z2 * s.toNat) (z3 * d.toNat)
  have hsdw := abs_add_le (z2 * s.toNat + z3 * d.toNat) (z4 * 255)
  have hz2 := abs_nonneg z2
  have hz3 := abs_nonneg z3
  have hz4 := abs_nonneg z4
  have h2 := h.second.fmul (denotesInt_byte s) (by omega)
  have h3 := h.third.fmul (denotesInt_byte d) (by omega)
  have h4 := h.fourth.fmul denotesInt_arith255 (by omega)
  have h12 := (h.first.zero_fmul (quotient_finite s d)).fadd h2 (by rw [zero_add]; omega)
  rw [zero_add] at h12
  exact ((h12.fadd h3 (by omega)).fadd h4 (by omega)).clampF

/-- A pixel whose channels are the formula's values between 0 and 255 is the result of `ARITH`. -/
theorem IntegerCoefficients.arithPixel_eq (h : IntegerCoefficients k1 k2 k3 k4 z2 z3 z4) {p q r : Word}
    (hr : ∀ ch ∈ channels, min (max (z2 * ch (unpack p) + z3 * ch (unpack q) + z4 * 255) 0) 255 = ch (unpack r)) :
    arithPixel (f32OfBits k1) (f32OfBits k2) (f32OfBits k3) (f32OfBits k4) p q = r := by
  refine word_eq_of_channels fun ch hch => ?_
  have hchannel : ch (unpack (arithPixel (f32OfBits k1) (f32OfBits k2) (f32OfBits k3) (f32OfBits k4) p q)) =
      (clampI (z2 * ch (unpack p) + z3 * ch (unpack q) + z4 * 255)).toNat := by
    simp only [arithPixel, unpack_pack, h.arithChannel_eq]
    simp only [channels, List.mem_cons, List.not_mem_nil, or_false] at hch
    rcases hch with rfl | rfl | rfl | rfl <;> rfl
  have hclamp := clampI_toNat (z2 * ch (unpack p) + z3 * ch (unpack q) + z4 * 255)
  rw [hr ch hch] at hclamp
  omega

/-- With coefficients that are integers `ARITH` delivers the image whose channels are the formula's values (R230). -/
theorem IntegerCoefficients.completesWith (h : IntegerCoefficients k1 k2 k3 k4 z2 z3 z4) {s : State}
    {img : Nat → Nat → Word} (hcontract : CallerContract .arith s)
    (hk : s.k1 = k1 ∧ s.k2 = k2 ∧ s.k3 = k3 ∧ s.k4 = k4)
    (himg : ∀ x y, ∀ ch ∈ channels, min (max (z2 * ch (unpack (inputImage s .s0 x y)) +
      z3 * ch (unpack (inputImage s .s1 x y)) + z4 * 255) 0) 255 = ch (unpack (img x y))) :
    CompletesWith .arith s img := by
  obtain ⟨rfl, rfl, rfl, rfl⟩ := hk
  have himage : (fun x y => arithPixel (f32OfBits s.k1) (f32OfBits s.k2) (f32OfBits s.k3) (f32OfBits s.k4)
      (inputImage s .s0 x y) (inputImage s .s1 x y)) = img :=
    funext fun x => funext fun y => h.arithPixel_eq (himg x y)
  exact himage ▸ arith_gives s trivial hcontract

end

/-- Settles O52: the coefficients are integers in each case, so the clamped formula is the stated pixel's channel. -/
theorem arithPassThroughAndConstants : Obligations.ArithPassThroughAndConstants := by
  unfold Obligations.ArithPassThroughAndConstants
  intro s hcontract one K
  have zero := denotesInt_zero
  refine ⟨?source, ?backdrop, ?white, ?nothing, ?negative⟩
  case source =>
    have hk : IntegerCoefficients 0 one 0 0 1 0 0 := ⟨zero, denotesInt_one, zero, zero, by decide⟩
    refine fun hK => hk.completesWith hcontract hK fun x y ch hch => ?_
    have hle := channel_le hch (unpack (inputImage s .s0 x y))
    omega
  case backdrop =>
    have hk : IntegerCoefficients 0 0 one 0 0 1 0 := ⟨zero, zero, denotesInt_one, zero, by decide⟩
    refine fun hK => hk.completesWith hcontract hK fun x y ch hch => ?_
    have hle := channel_le hch (unpack (inputImage s .s1 x y))
    omega
  case white =>
    have hk : IntegerCoefficients 0 0 0 one 0 0 1 := ⟨zero, zero, zero, denotesInt_one, by decide⟩
    refine fun hK => hk.completesWith hcontract hK fun x y ch hch => ?_
    rw [channel_white hch]
    omega
  case nothing =>
    have hk : IntegerCoefficients 0 0 0 0 0 0 0 := ⟨zero, zero, zero, zero, by decide⟩
    refine fun hK => hk.completesWith hcontract hK fun x y ch hch => ?_
    have hzero : ch (unpack 0) = 0 := channel_zero hch
    omega
  case negative =>
    have hk : IntegerCoefficients 0 0xBF800000#32 0 0 (-1) 0 0 := ⟨zero, denotesInt_neg_one, zero, zero, by decide⟩
    refine fun hK => hk.completesWith hcontract hK fun x y ch hch => ?_
    have hzero : ch (unpack 0) = 0 := channel_zero hch
    omega

end Sys2Proof.Proofs.Composite
end

section
/-! SUPPORT. Taking the exception (`60_exceptions.md` R241): the step that an illegal command word makes, and all that it
changes. -/

namespace Sys2Proof.Proofs.Exceptions

open Sys2Proof.Machine

/-- A write of an illegal word to `CMD` raises the exception once the write is off the host's list (R82, R241). -/
theorem step_of_illegalWord {s : State} {c : Word} {rest : List HostEvent} (hp : s.pending = .wr 0x01 c :: rest)
    (hc : wordLegal c = false) : step s = .next (raiseIllegal { s with pending := rest } c) := by
  obtain ⟨e, he⟩ := (Steps.decode_eq_error_iff c).mpr hc
  obtain ⟨-, raises⟩ := (Transactions.stepRunsTheDecodedCommand s c rest).1 hp
  exact raises e he

/-- The exception writes `ILLCMD` and `STATUS`; every other field is carried over (R241). -/
theorem raiseIllegal_eq (s : State) (c : Word) :
    raiseIllegal s c =
      { s with illcmd := if illSet s.status then s.illcmd else c, status := s.status ||| 0x00000002#32 } := rfl

/-- Settles O5: the step is `raiseIllegal` (`step_of_illegalWord`), which sets `ILL` and writes `STATUS` and `ILLCMD` alone. -/
theorem illegalWordRecordsItselfAndNothingElse : Obligations.IllegalWordRecordsItselfAndNothingElse := by
  unfold Obligations.IllegalWordRecordsItselfAndNothingElse
  intro s c rest hp hc
  exact ⟨_, step_of_illegalWord hp hc, Steps.illSet_statusRaise s.status, raiseIllegal_eq _ c⟩

end Sys2Proof.Proofs.Exceptions
end

section
/-! SUPPORT. Reset (`70_reset_and_hazards.md` R260, R262): what each register and each index reads after it, and what it
leaves as it was. -/

namespace Sys2Proof.Proofs.Reset

open Sys2Proof.Machine Sys2Proof.Proofs.Registers

/-! ## Registers -/

/-- `ID` is the one register whose reset value is not 0 (R54). -/
theorem regRead_reset {r : Reg} (h : r ≠ .id) : regRead State.reset r = 0 := by
  cases r with
  | id => exact absurd rfl h
  | base n => cases n <;> rfl
  | dim n => cases n <;> rfl
  | stride n => cases n <;> rfl
  | mat n => simp [regRead, State.reset, Vector.get_eq_getElem]
  | _ => rfl

/-- The platform's reset carries over no register (R260). -/
theorem regRead_applyReset (s : State) (r : Reg) : regRead (applyReset s) r = regRead State.reset r := by
  cases r with
  | base n => cases n <;> rfl
  | dim n => cases n <;> rfl
  | stride n => cases n <;> rfl
  | _ => rfl

/-! ## Indices -/

theorem indexRead_reset (i : RegIndex) : indexRead State.reset i = if i = 0x00 then 0x50464501#32 else 0 := by
  split
  case isTrue hi =>
    subst hi
    exact indexRead_regIndex State.reset .id
  case isFalse hi =>
    cases hr : regOfIndex i with
    | none => exact indexRead_reserved hr State.reset
    | some r =>
      have hne : r ≠ .id := by
        rintro rfl
        exact hi (regOfIndex_eq_some_iff.mp hr)
      rw [indexRead_eq hr, regRead_reset hne]

theorem indexRead_applyReset (s : State) (i : RegIndex) : indexRead (applyReset s) i = indexRead State.reset i := by
  cases hr : regOfIndex i with
  | none => rw [indexRead_reserved hr, indexRead_reserved hr]
  | some r => rw [indexRead_eq hr, indexRead_eq hr, regRead_applyReset]

/-! ## Pixel memory -/

/-- An element depends on memory and the byte order alone, and reset keeps both (R262). -/
@[simp] theorem elem_applyReset (s : State) (e : Nat) : (applyReset s).elem e = s.elem e := rfl

/-! ## The statements about reset -/

/-- Settles O13: each index is read by the register it names, `ID` being the only one with a reset value other than 0. -/
theorem resetSetsEveryRegister : Obligations.ResetSetsEveryRegister := by
  unfold Obligations.ResetSetsEveryRegister
  exact ⟨indexRead_reset, fun s i => (indexRead_applyReset s i).trans (indexRead_reset i)⟩

/-- Settles O14: the step is `applyReset` of the state with the action taken off the host's list. -/
theorem resetEventKeepsPixelMemory : Obligations.ResetEventKeepsPixelMemory := by
  unfold Obligations.ResetEventKeepsPixelMemory
  intro s rest hp
  have hstep : step s = .next (applyReset { s with pending := rest }) := step_of_pending hp
  exact ⟨_, hstep, indexRead_applyReset _, applyReset_mem _, elem_applyReset _, applyReset_params _,
    applyReset_pending _⟩

end Sys2Proof.Proofs.Reset
end
